-- ==== Sys2Proof/Word.lean ====
section
/-! DEFINITION. The two word types of the block (R6, R8: 8-bit data, 16-bit addresses, all unsigned). -/

namespace Sys2Proof

/-- A byte, 0..255 (R8). -/
abbrev Byte := BitVec 8

/-- A 16-bit address, 0..65535 (R8, R40). -/
abbrev Addr := BitVec 16

end Sys2Proof
end

