-- ==== Sys2Proof/Config.lean ====
section
/-! DEFINITION. The two Boolean parameters the source leaves open (R7, 00_scope.md). The other two of R7 are
arguments elsewhere: INIT_MEM of `State.construct`, STEP_BUDGET of `run`. -/

namespace Sys2Proof

/-- R7's parameters that a step reads. State holds them as plain data, so that a statement about every state is
a statement about every choice of them. DESIGN CHOICE, safe (log entry 5). -/
structure Config where
  /-- ZP_PTR_WRAP: an indirect pointer's high byte comes from `(p + 1) mod 256` (R92, D6). -/
  zpPtrWrap : Bool
  /-- INDY_PAGE_PENALTY: (Indirect),Y pays one cycle for a crossed page (R91, D8). -/
  indyPagePenalty : Bool
deriving DecidableEq, Repr

/-- The spec's defaults (R7): both false. DESIGN CHOICE, unsafe for a block with the other value (log entry 5). -/
def Config.specDefault : Config := { zpPtrWrap := false, indyPagePenalty := false }

end Sys2Proof
end

