-- ==== Sys2Proof/Syntax.lean ====
section
/-! DEFINITION. The instructions of the block as syntax: the seven mnemonics, the ten addressing modes with
their operands, and one constructor per row of spec/opcode_table.json (R61 to R64, 30_encoding.md). -/

namespace Sys2Proof

/-- The seven mnemonics of the instruction table (R64). -/
inductive Mnemonic where
  | adc | lda | ldx | ldy | sta | stx | nop
deriving DecidableEq, Repr

/-- The ten addressing modes (R61, R82 to R91). -/
inductive Mode where
  | implied | immediate | zeroPage | zeroPageX | zeroPageY | absolute | absoluteX | absoluteY
  | indirectX | indirectY
deriving DecidableEq, Repr

/-- An operand in memory, with the address field the instruction carries (R62): `b` a zero-page byte,
`a` the 16-bit absolute address already composed from its two bytes. -/
inductive MemOperand where
  | zeroPage (b : Byte)
  | zeroPageX (b : Byte)
  | zeroPageY (b : Byte)
  | absolute (a : Addr)
  | absoluteX (a : Addr)
  | absoluteY (a : Addr)
  | indirectX (b : Byte)
  | indirectY (b : Byte)
deriving DecidableEq, Repr

/-- What the operand bytes of an instruction stand for (R62). -/
inductive Operand where
  | implied
  | immediate (v : Byte)
  | mem (o : MemOperand)
deriving DecidableEq, Repr

/-- Whether an instruction consumes an operand value or an effective address (glossary of 00_scope.md;
R89, R93): ADC, LDA, LDX and LDY read, STA and STX store. -/
inductive AccessClass where
  | read | store
deriving DecidableEq, Repr

/-- One constructor per row of spec/opcode_table.json (R64): the mnemonic, then the mode. -/
inductive Instr where
  | adcImm (v : Byte)  -- ADC #b
  | adcZp (b : Byte)  -- ADC $b
  | adcZpX (b : Byte)  -- ADC $b,X
  | adcAbs (a : Addr)  -- ADC $a
  | adcAbsX (a : Addr)  -- ADC $a,X
  | adcAbsY (a : Addr)  -- ADC $a,Y
  | adcIndX (b : Byte)  -- ADC ($b,X)
  | adcIndY (b : Byte)  -- ADC ($b),Y
  | ldaImm (v : Byte)  -- LDA #b
  | ldaZp (b : Byte)  -- LDA $b
  | ldaZpX (b : Byte)  -- LDA $b,X
  | ldaAbs (a : Addr)  -- LDA $a
  | ldaAbsX (a : Addr)  -- LDA $a,X
  | ldaAbsY (a : Addr)  -- LDA $a,Y
  | ldaIndX (b : Byte)  -- LDA ($b,X)
  | ldaIndY (b : Byte)  -- LDA ($b),Y
  | ldxImm (v : Byte)  -- LDX #b
  | ldxZp (b : Byte)  -- LDX $b
  | ldxZpY (b : Byte)  -- LDX $b,Y
  | ldxAbs (a : Addr)  -- LDX $a
  | ldxAbsY (a : Addr)  -- LDX $a,Y
  | ldyImm (v : Byte)  -- LDY #b
  | ldyZp (b : Byte)  -- LDY $b
  | ldyZpX (b : Byte)  -- LDY $b,X
  | ldyAbs (a : Addr)  -- LDY $a
  | ldyAbsX (a : Addr)  -- LDY $a,X
  | staZp (b : Byte)  -- STA $b
  | staZpX (b : Byte)  -- STA $b,X
  | staAbs (a : Addr)  -- STA $a
  | staAbsX (a : Addr)  -- STA $a,X
  | staAbsY (a : Addr)  -- STA $a,Y
  | staIndX (b : Byte)  -- STA ($b,X)
  | staIndY (b : Byte)  -- STA ($b),Y
  | stxZp (b : Byte)  -- STX $b
  | stxZpY (b : Byte)  -- STX $b,Y
  | stxAbs (a : Addr)  -- STX $a
  | nop            -- NOP
deriving DecidableEq, Repr

/-- The mnemonic of each row (R64). -/
def Instr.mnemonic : Instr → Mnemonic
  | .adcImm _ | .adcZp _ | .adcZpX _ | .adcAbs _ | .adcAbsX _ | .adcAbsY _ | .adcIndX _ | .adcIndY _ => .adc
  | .ldaImm _ | .ldaZp _ | .ldaZpX _ | .ldaAbs _ | .ldaAbsX _ | .ldaAbsY _ | .ldaIndX _ | .ldaIndY _ => .lda
  | .ldxImm _ | .ldxZp _ | .ldxZpY _ | .ldxAbs _ | .ldxAbsY _ => .ldx
  | .ldyImm _ | .ldyZp _ | .ldyZpX _ | .ldyAbs _ | .ldyAbsX _ => .ldy
  | .staZp _ | .staZpX _ | .staAbs _ | .staAbsX _ | .staAbsY _ | .staIndX _ | .staIndY _ => .sta
  | .stxZp _ | .stxZpY _ | .stxAbs _ => .stx
  | .nop => .nop

/-- The operand of each row, in the form of its mode (R64, R62). -/
def Instr.operand : Instr → Operand
  | .adcImm v => .immediate v
  | .adcZp b => .mem (.zeroPage b)
  | .adcZpX b => .mem (.zeroPageX b)
  | .adcAbs a => .mem (.absolute a)
  | .adcAbsX a => .mem (.absoluteX a)
  | .adcAbsY a => .mem (.absoluteY a)
  | .adcIndX b => .mem (.indirectX b)
  | .adcIndY b => .mem (.indirectY b)
  | .ldaImm v => .immediate v
  | .ldaZp b => .mem (.zeroPage b)
  | .ldaZpX b => .mem (.zeroPageX b)
  | .ldaAbs a => .mem (.absolute a)
  | .ldaAbsX a => .mem (.absoluteX a)
  | .ldaAbsY a => .mem (.absoluteY a)
  | .ldaIndX b => .mem (.indirectX b)
  | .ldaIndY b => .mem (.indirectY b)
  | .ldxImm v => .immediate v
  | .ldxZp b => .mem (.zeroPage b)
  | .ldxZpY b => .mem (.zeroPageY b)
  | .ldxAbs a => .mem (.absolute a)
  | .ldxAbsY a => .mem (.absoluteY a)
  | .ldyImm v => .immediate v
  | .ldyZp b => .mem (.zeroPage b)
  | .ldyZpX b => .mem (.zeroPageX b)
  | .ldyAbs a => .mem (.absolute a)
  | .ldyAbsX a => .mem (.absoluteX a)
  | .staZp b => .mem (.zeroPage b)
  | .staZpX b => .mem (.zeroPageX b)
  | .staAbs a => .mem (.absolute a)
  | .staAbsX a => .mem (.absoluteX a)
  | .staAbsY a => .mem (.absoluteY a)
  | .staIndX b => .mem (.indirectX b)
  | .staIndY b => .mem (.indirectY b)
  | .stxZp b => .mem (.zeroPage b)
  | .stxZpY b => .mem (.zeroPageY b)
  | .stxAbs a => .mem (.absolute a)
  | .nop => .implied

/-- The mode of an operand. -/
def Operand.mode : Operand → Mode
  | .implied => .implied
  | .immediate _ => .immediate
  | .mem (.zeroPage _) => .zeroPage
  | .mem (.zeroPageX _) => .zeroPageX
  | .mem (.zeroPageY _) => .zeroPageY
  | .mem (.absolute _) => .absolute
  | .mem (.absoluteX _) => .absoluteX
  | .mem (.absoluteY _) => .absoluteY
  | .mem (.indirectX _) => .indirectX
  | .mem (.indirectY _) => .indirectY

/-- The addressing mode of each row (R64). -/
def Instr.mode (i : Instr) : Mode := i.operand.mode

end Sys2Proof
end

