-- ==== Sys2Proof/WellFormed.lean ====
section
/-! DEFINITION. Which mnemonic takes which addressing mode: the "Encoding" lists of R120, R130 to R132, R140,
R141 and R150, mode by mode. A pair outside them is ill-formed: no instruction of the table has it (R64, R93). -/

namespace Sys2Proof

/-- The modes the spec lists for each mnemonic. R93: no store-class instruction has Immediate, and none but
NOP has Implied. -/
def Mnemonic.modes : Mnemonic → List Mode
  | .adc | .lda => [.immediate, .zeroPage, .zeroPageX, .absolute, .absoluteX, .absoluteY, .indirectX, .indirectY]
  | .ldx => [.immediate, .zeroPage, .zeroPageY, .absolute, .absoluteY]
  | .ldy => [.immediate, .zeroPage, .zeroPageX, .absolute, .absoluteX]
  | .sta => [.zeroPage, .zeroPageX, .absolute, .absoluteX, .absoluteY, .indirectX, .indirectY]
  | .stx => [.zeroPage, .zeroPageY, .absolute]
  | .nop => [.implied]

/-- A mnemonic with an operand, as an assembly line pairs them (R67): well formed when the table has the pair. -/
def Mnemonic.takes (m : Mnemonic) (o : Operand) : Bool := m.modes.contains o.mode

/-- An instruction is well formed when its mnemonic takes its operand. Every field of `Instr` has the width
of its encoding, so no other check is left. -/
def Instr.wellFormed (i : Instr) : Bool := i.mnemonic.takes i.operand

end Sys2Proof
end

