-- ==== Sys2Proof/Decode.lean ====
section
/-! DEFINITION. Decoding and encoding (30_encoding.md): the byte-order helpers, the static instruction table of
R64, the decoder (total on any bytes, rejecting by name), the encoder, and the host's `decodeTableWord`. -/

namespace Sys2Proof

/-- `zext16(b)` of R9. -/
def zext16 (b : Byte) : Addr := b.setWidth 16

/-- A 16-bit value from its high and low bytes, by OR and never AND (R44). -/
def compose16 (hi lo : Byte) : Addr := (zext16 hi <<< 8) ||| zext16 lo

/-- Bits 7..0 (R9). -/
def loByte (a : Addr) : Byte := a.extractLsb' 0 8

/-- Bits 15..8 (R9). -/
def hiByte (a : Addr) : Byte := a.extractLsb' 8 8

/-- What follows an opcode byte: the three formats F1, F2 and F3 of R61, each with the instruction it makes. -/
inductive Shape where
  | f1 (i : Instr)
  | f2 (mk : Byte → Instr)
  | f3 (mk : Addr → Instr)

/-- How many operand bytes the format has (R61). -/
def Shape.operandBytes : Shape → Nat
  | .f1 _ => 0
  | .f2 _ => 1
  | .f3 _ => 2

/-- The rows of ADC, R120 (R64). -/
def adcRows : List (Byte × Shape) :=
  [(0x69#8, .f2 .adcImm), (0x65#8, .f2 .adcZp), (0x75#8, .f2 .adcZpX),
   (0x6D#8, .f3 .adcAbs), (0x7D#8, .f3 .adcAbsX), (0x79#8, .f3 .adcAbsY),
   (0x61#8, .f2 .adcIndX), (0x71#8, .f2 .adcIndY)]

/-- The rows of LDA, R130 (R64). -/
def ldaRows : List (Byte × Shape) :=
  [(0xA9#8, .f2 .ldaImm), (0xA5#8, .f2 .ldaZp), (0xB5#8, .f2 .ldaZpX),
   (0xAD#8, .f3 .ldaAbs), (0xBD#8, .f3 .ldaAbsX), (0xB9#8, .f3 .ldaAbsY),
   (0xA1#8, .f2 .ldaIndX), (0xB1#8, .f2 .ldaIndY)]

/-- The rows of LDX, R131 (R64). -/
def ldxRows : List (Byte × Shape) :=
  [(0xA2#8, .f2 .ldxImm), (0xA6#8, .f2 .ldxZp), (0xB6#8, .f2 .ldxZpY),
   (0xAE#8, .f3 .ldxAbs), (0xBE#8, .f3 .ldxAbsY)]

/-- The rows of LDY, R132 (R64). -/
def ldyRows : List (Byte × Shape) :=
  [(0xA0#8, .f2 .ldyImm), (0xA4#8, .f2 .ldyZp), (0xB4#8, .f2 .ldyZpX),
   (0xAC#8, .f3 .ldyAbs), (0xBC#8, .f3 .ldyAbsX)]

/-- The rows of STA, R140 (R64). -/
def staRows : List (Byte × Shape) :=
  [(0x85#8, .f2 .staZp), (0x95#8, .f2 .staZpX), (0x8D#8, .f3 .staAbs),
   (0x9D#8, .f3 .staAbsX), (0x99#8, .f3 .staAbsY), (0x81#8, .f2 .staIndX),
   (0x91#8, .f2 .staIndY)]

/-- The rows of STX, R141 (R64). -/
def stxRows : List (Byte × Shape) :=
  [(0x86#8, .f2 .stxZp), (0x96#8, .f2 .stxZpY), (0x8E#8, .f3 .stxAbs)]

/-- The static instruction table (R63, R64): exactly 37 rows, one per opcode byte. The five bytes 0xA9, 0xA2,
0x85, 0x95 and 0xEA are the source's, the other 32 the spec's own choice D1 (log entry 6). -/
def table : List (Byte × Shape) :=
  adcRows ++ ldaRows ++ ldxRows ++ ldyRows ++ staRows ++ stxRows ++ [(0xEA#8, .f1 .nop)]

/-- The first row with the opcode byte, among the rows given. -/
def findRow (op : Byte) : List (Byte × Shape) → Option Shape
  | [] => none
  | (k, sh) :: rows => if k = op then some sh else findRow op rows

/-- The table lookup of R63 and R100; `none` is an unsupported opcode (R65). -/
def lookup (op : Byte) : Option Shape := findRow op table

/-- How many operand bytes the opcode byte alone announces (R61, R66); none for an unsupported opcode. -/
def operandCount (op : Byte) : Nat :=
  match lookup op with
  | some sh => sh.operandBytes
  | none => 0

/-- Why bytes decode to no instruction. -/
inductive DecodeError where
  /-- The opcode byte has no table entry (R65). -/
  | unsupportedOpcode (op : Byte)
  /-- The bytes end before the instruction does. The machine never meets it: it fetches every byte. -/
  | truncated
deriving DecidableEq, Repr

/-- The operands by format (R61, R62): one byte as it is, or two with the low byte first (D4, log entry 6). -/
def Shape.build : Shape → List Byte → Except DecodeError (Instr × List Byte)
  | .f1 i, bs => .ok (i, bs)
  | .f2 mk, b1 :: bs => .ok (mk b1, bs)
  | .f3 mk, b1 :: b2 :: bs => .ok (mk (compose16 b2 b1), bs)
  | _, _ => .error .truncated

/-- The decoder, total on any bytes: the instruction with the bytes after it, or the reason there is none. -/
def decode : List Byte → Except DecodeError (Instr × List Byte)
  | [] => .error .truncated
  | op :: bs =>
    match lookup op with
    | none => .error (.unsupportedOpcode op)
    | some sh => sh.build bs

/-- The opcode byte of each instruction (the rules' "Encoding" lists: R120, R130 to R132, R140, R141, R150). -/
def Instr.opcode : Instr → Byte
  | .adcImm _ => 0x69#8
  | .adcZp _ => 0x65#8
  | .adcZpX _ => 0x75#8
  | .adcAbs _ => 0x6D#8
  | .adcAbsX _ => 0x7D#8
  | .adcAbsY _ => 0x79#8
  | .adcIndX _ => 0x61#8
  | .adcIndY _ => 0x71#8
  | .ldaImm _ => 0xA9#8
  | .ldaZp _ => 0xA5#8
  | .ldaZpX _ => 0xB5#8
  | .ldaAbs _ => 0xAD#8
  | .ldaAbsX _ => 0xBD#8
  | .ldaAbsY _ => 0xB9#8
  | .ldaIndX _ => 0xA1#8
  | .ldaIndY _ => 0xB1#8
  | .ldxImm _ => 0xA2#8
  | .ldxZp _ => 0xA6#8
  | .ldxZpY _ => 0xB6#8
  | .ldxAbs _ => 0xAE#8
  | .ldxAbsY _ => 0xBE#8
  | .ldyImm _ => 0xA0#8
  | .ldyZp _ => 0xA4#8
  | .ldyZpX _ => 0xB4#8
  | .ldyAbs _ => 0xAC#8
  | .ldyAbsX _ => 0xBC#8
  | .staZp _ => 0x85#8
  | .staZpX _ => 0x95#8
  | .staAbs _ => 0x8D#8
  | .staAbsX _ => 0x9D#8
  | .staAbsY _ => 0x99#8
  | .staIndX _ => 0x81#8
  | .staIndY _ => 0x91#8
  | .stxZp _ => 0x86#8
  | .stxZpY _ => 0x96#8
  | .stxAbs _ => 0x8E#8
  | .nop => 0xEA#8

/-- The operand bytes of a memory operand (R61, R62): the zero-page byte, or the absolute address low byte first. -/
def MemOperand.bytes : MemOperand → List Byte
  | .zeroPage b | .zeroPageX b | .zeroPageY b | .indirectX b | .indirectY b => [b]
  | .absolute a | .absoluteX a | .absoluteY a => [loByte a, hiByte a]

/-- The operand bytes of an instruction (R61, R62). -/
def Operand.bytes : Operand → List Byte
  | .implied => []
  | .immediate v => [v]
  | .mem o => o.bytes

/-- The encoder (R60): the opcode byte, then the operand bytes. -/
def encode (i : Instr) : List Byte := i.opcode :: i.operand.bytes

/-- The length of an instruction in bytes, by its mode alone (R60, R61). -/
def Instr.length (i : Instr) : Nat :=
  match i.mode with
  | .implied => 1
  | .immediate | .zeroPage | .zeroPageX | .zeroPageY | .indirectX | .indirectY => 2
  | .absolute | .absoluteX | .absoluteY => 3

/-- The three bytes (the longest instruction) of a table word: bit 0 of `w` is the least significant bit of the
first byte, and every bit above `nbits` is 0. -/
def tableBytes (nbits w : Nat) : List Byte :=
  let v := w % 2 ^ nbits
  [BitVec.ofNat 8 v, BitVec.ofNat 8 (v / 256), BitVec.ofNat 8 (v / 65536)]

/-- The instruction the decoder reads from a table word. -/
def decodeTableWord (nbits w : Nat) : Option Instr :=
  match decode (tableBytes nbits w) with
  | .ok (i, _) => some i
  | .error _ => none

end Sys2Proof
end

