-- ==== Sys2Proof/Machine/Memory.lean ====
section
/-! DEFINITION. The memory of the block (20_memory.md): 65536 bytes in one flat space, held as a list of cells in
one canonical form (addresses strictly rising, no cell equal to what an unlisted address reads as). -/

namespace Sys2Proof.Machine

/-- The memory, as cells. Every content of the 65536 bytes is exactly one canonical list, so INIT_MEM (R52) is a
memory like any other. -/
abbrev Memory := List Host.Cell

/-- What an address with no cell reads as. The spec states no contents at construction (R52, N7).
DESIGN CHOICE, unsafe for a statement about `State.reset` alone (log entry 1). -/
def Memory.unlisted : Byte := 0x00#8

/-- The first cell with the address, read from the front. -/
def Memory.find : Memory → Nat → Byte
  | [], _ => Memory.unlisted
  | (k, v) :: m, a => if k = a then v else Memory.find m a

/-- `MemRead(a, 1)` (R41): total, and it changes nothing. -/
def Memory.read (m : Memory) (a : Addr) : Byte := Memory.find m a.toNat

/-- The memory without any cell of the address. -/
def Memory.drop : Memory → Nat → Memory
  | [], _ => []
  | (k, v) :: m, a => if k = a then Memory.drop m a else (k, v) :: Memory.drop m a

/-- The memory with a cell put before the first higher address. -/
def Memory.place : Memory → Nat → Byte → Memory
  | [], a, v => [(a, v)]
  | (k, w) :: m, a, v => if a < k then (a, v) :: (k, w) :: m else (k, w) :: Memory.place m a v

/-- `MemWrite(a, 1, v)` (R42). Writing what an unlisted address reads as removes the cell. -/
def Memory.write (m : Memory) (a : Addr) (v : Byte) : Memory :=
  if v = Memory.unlisted then Memory.drop m a.toNat else Memory.place (Memory.drop m a.toNat) a.toNat v

/-- Bytes written one after another at rising addresses, in order (R183). -/
def Memory.writeBytes : Memory → Addr → List Byte → Memory
  | m, _, [] => m
  | m, a, b :: bs => Memory.writeBytes (Memory.write m a b) (a + 1) bs

/-- `MemRead16LE(a)` (R43, R45): the high byte at `a + 1` mod 65536. -/
def Memory.read16 (m : Memory) (a : Addr) : Addr := compose16 (m.read (a + 1)) (m.read a)

/-- `PtrRead(p)` (R92): `wrap` is ZP_PTR_WRAP, and only p = 0xFF tells its two values apart. -/
def Memory.readPtr (wrap : Bool) (m : Memory) (p : Byte) : Addr :=
  if wrap then compose16 (m.read (zext16 (p + 1))) (m.read (zext16 p)) else m.read16 (zext16 p)

/-- Canonical from `lo` on. -/
def Memory.canonicalFrom : Nat → Memory → Bool
  | _, [] => true
  | lo, (k, v) :: m =>
    decide (lo ≤ k) && decide (k < 65536) && decide (v ≠ Memory.unlisted) && Memory.canonicalFrom (k + 1) m

/-- The canonical form of a memory. -/
def Memory.wf (m : Memory) : Bool := Memory.canonicalFrom 0 m

end Sys2Proof.Machine
end

