-- ==== Sys2Proof/Machine/State.lean ====
section
/-! DEFINITION. The state of the block as plain data (10_state.md), its error and the model's refusals, and the
state after construction and after reset. -/

namespace Sys2Proof.Machine

/-- The seven named flags, R27's closed enumeration. -/
inductive Flag where
  | c | z | i | d | b | v | n
deriving DecidableEq, Repr

/-- The block's errors. -/
inductive Fault where
  /-- UnsupportedOpcode (R160), raised by the dispatcher for an opcode byte with no table entry. The step that
  raises it goes on to the next state R161 gives and records the error in State, so no step ends in a fault
  outcome. Safe (log entry 3). -/
  | unsupportedOpcode (op : Byte)
deriving DecidableEq, Repr

/-- What the model turns away. -/
inductive Refusal where
  /-- Raised by an arm of `exec` for an instruction with no meaning yet; no arm is such. Safe. -/
  | notModelled (mnemonic : String)
  /-- Raised by `step` before bootstrap: the host's duty of R186, which "a model refuses" (D17). Safe. -/
  | stepBeforeBootstrap
  /-- Raised by `loadProgram` and `boot` for more than 32768 bytes (R183, R184, D20, D21). Safe. -/
  | programTooLong
deriving DecidableEq, Repr

/-- What a step returns to its caller (R108). -/
inductive StepResult where
  | ok
  | error (f : Fault)
deriving DecidableEq, Repr

/-- Everything the spec gives the machine (R20 to R34, R40), then the bookkeeping R33 asks of a model, then the
model's own two fields. -/
structure State where
  /-- The accumulator (R21). -/
  a : Byte
  /-- Index register X (R22). -/
  x : Byte
  /-- Index register Y (R22). -/
  y : Byte
  /-- The stack pointer (R23). -/
  sp : Byte
  /-- The program counter (R24). -/
  pc : Addr
  /-- The status register, its seven flags and unused bit 5 (R25). -/
  p : Byte
  /-- The cycle accumulator (R29). -/
  cyc : Nat
  /-- The memory (R40). -/
  mem : Memory
  /-- The mark that bootstrap has run (R33, R186). -/
  bootstrapped : Bool
  /-- The sticky fault record (R33, R163): the first error any step raised. -/
  faultRecord : Option Fault
  /-- The model's own: what the last step returned to its caller (R108), nothing before the first. -/
  result : Option StepResult
  /-- The model's own: the parameters of R7. -/
  cfg : Config
deriving DecidableEq, Repr

/-- Construction (R32, R180), for any parameters and any INIT_MEM (R7, R52). -/
def State.construct (cfg : Config) (initMem : Memory) : State :=
  { a := 0x00#8, x := 0x00#8, y := 0x00#8, sp := 0xFF#8, pc := 0x0000#16, p := 0x00#8, cyc := 0, mem := initMem,
    bootstrapped := false, faultRecord := none, result := none, cfg := cfg }

/-- Reset: construction with the spec's default parameters and nothing listed in memory, then the block's one
reset operation, bootstrap (R181, R185). The vector reads 0x0000 there. DESIGN CHOICE, unsafe for a statement
about this state alone (log entries 1, 2, 5). -/
def State.reset : State :=
  { State.construct Config.specDefault [] with pc := Memory.read16 [] 0xFFFC#16, bootstrapped := true }

end Sys2Proof.Machine
end

