-- ==== Sys2Proof/Machine/Ops.lean ====
section
/-! DEFINITION. The named operations on the state: memory access, the fetch primitive, the cycle accumulator, the
start of a step, and raising the block's one error. -/

namespace Sys2Proof.Machine

/-- The outcome of a meaning, of a step and of a host operation on the state. -/
abbrev Result := Host.Outcome State Fault Refusal

/-- `MemRead(a, 1)` (R41); also the inspection of an arbitrary memory byte (R34). -/
def State.readByte (s : State) (a : Addr) : Byte := s.mem.read a

/-- `MemWrite(a, 1, v)` (R42). -/
def State.writeByte (s : State) (a : Addr) (v : Byte) : State := { s with mem := s.mem.write a v }

/-- Adds cycles to the accumulator (R29). -/
def State.addCycles (s : State) (n : Nat) : State := { s with cyc := s.cyc + n }

/-- The state after `FetchByte()` (R80): PC advances mod 65536, one cycle. -/
def State.afterFetch (s : State) : State := { s with pc := s.pc + 1, cyc := s.cyc + 1 }

/-- `FetchByte()` (R80): the byte at PC, and the state after. -/
def State.fetchByte (s : State) : Byte × State := (s.readByte s.pc, s.afterFetch)

/-- The start of a step: the accumulator is drained (R102), and the step's result is Ok unless the dispatcher
raises the error (R108). -/
def State.startStep (s : State) : State := { s with cyc := 0, result := some .ok }

/-- `raise` (R160 to R163, R167): the step's result becomes the error, and the sticky record keeps the first
error ever raised. No register, flag or memory byte changes, no handler is entered, and there is no return from
it (R168). Keeping the first: DESIGN CHOICE, safe (log entry 4). -/
def State.raise (s : State) (f : Fault) : State :=
  { s with result := some (.error f), faultRecord := s.faultRecord.or (some f) }

end Sys2Proof.Machine
end

