-- ==== Sys2Proof/Machine/Flags.lean ====
section
/-! DEFINITION. The status flag bank (R25 to R31, 10_state.md) and ADC's flag computations (R120, 42_adc.md). -/

namespace Sys2Proof.Machine

/-- `mask(f)` (R25, R27). Bit 5 (0x20) is no flag's (R26). -/
def Flag.mask : Flag → Byte
  | .c => 0x01#8
  | .z => 0x02#8
  | .i => 0x04#8
  | .d => 0x08#8
  | .b => 0x10#8
  | .v => 0x40#8
  | .n => 0x80#8

/-- `get(f)` on a value of P (R27). -/
def getFlag (p : Byte) (f : Flag) : Bool := p &&& f.mask != 0#8

/-- `set(f, v)` on a value of P (R27). -/
def setFlag (p : Byte) (f : Flag) (v : Bool) : Byte := if v then p ||| f.mask else p &&& ~~~f.mask

/-- `P.f` when read (R10, R27). -/
def State.flag (s : State) (f : Flag) : Bool := getFlag s.p f

/-- `P.f <- v` (R10, R27). -/
def State.putFlag (s : State) (f : Flag) (v : Bool) : State := { s with p := setFlag s.p f v }

/-- `SetZN(v)` (R31). -/
def State.setZN (s : State) (v : Byte) : State :=
  (s.putFlag .z (v == 0#8)).putFlag .n (v &&& 0x80#8 != 0#8)

/-- ADC's exact sum, 0..511 (R120). -/
def adcSum (a m : Byte) (c : Bool) : Nat := a.toNat + m.toNat + c.toNat

/-- ADC's result, the sum mod 256 (R120). -/
def adcResult (a m : Byte) (c : Bool) : Byte := BitVec.ofNat 8 (adcSum a m c)

/-- ADC's carry out (R120; formula D10, log entry 6). -/
def adcCarry (a m : Byte) (c : Bool) : Bool := decide (adcSum a m c > 255)

/-- ADC's signed overflow, from the operands and the result (R120; formula D10, log entry 6). -/
def adcOverflow (a m r : Byte) : Bool := (a ^^^ r) &&& (m ^^^ r) &&& 0x80#8 != 0#8

end Sys2Proof.Machine
end

