-- ==== Sys2Proof/Machine/Operands.lean ====
section
/-! DEFINITION. The addressing-mode resolver (R81 to R95, 40_addressing.md), on an instruction whose operand bytes
have been fetched: the effective address and the extra cycles of each memory mode, and what the handler receives. -/

namespace Sys2Proof.Machine

/-- The zero-page address an index gives, wrapping inside the zero page (R45, R85, R86, R90). -/
def zeroPageSum (b idx : Byte) : Byte := b + idx

/-- `PtrRead(p)` in the state (R92). -/
def State.pointer (s : State) (p : Byte) : Addr := Memory.readPtr s.cfg.zpPtrWrap s.mem p

/-- The effective address of each memory mode (R84 to R88, R90, R91). -/
def State.effAddr (s : State) : MemOperand → Addr
  | .zeroPage b => zext16 b
  | .zeroPageX b => zext16 (zeroPageSum b s.x)
  | .zeroPageY b => zext16 (zeroPageSum b s.y)
  | .absolute a => a
  | .absoluteX a => a + zext16 s.x
  | .absoluteY a => a + zext16 s.y
  | .indirectX b => s.pointer (zeroPageSum b s.x)
  | .indirectY b => s.pointer b + zext16 s.y

/-- The extra cycle of Absolute,X and Absolute,Y (R89; D9, log entry 6). -/
def absIndexedCycles (cls : AccessClass) (lsb idx : Byte) : Nat :=
  match cls with
  | .store => 1
  | .read => if 255 - idx.toNat < lsb.toNat then 1 else 0

/-- The cycles a mode adds to those of its fetches (R84 to R91). Zero Page,Y's 3 is the source's unaudited
literal (I9); the (Indirect,X) test is D7; the (Indirect),Y penalty is R7's parameter (log entries 5, 6). -/
def State.extraCycles (s : State) (cls : AccessClass) : MemOperand → Nat
  | .zeroPage _ => 1
  | .zeroPageX _ => 2
  | .zeroPageY _ => 3
  | .absolute _ => 0
  | .absoluteX a => absIndexedCycles cls (loByte a) s.x
  | .absoluteY a => absIndexedCycles cls (loByte a) s.y
  | .indirectX b => if b.toNat + s.x.toNat > 255 then 1 else 0
  | .indirectY b => if s.cfg.indyPagePenalty && decide ((loByte (s.pointer b)).toNat + s.y.toNat > 255) then 1 else 0

/-- `Resolve(mode)` for a memory mode, after its fetches (R81): the address, and the cycles; nothing else. -/
def State.resolve (s : State) (cls : AccessClass) (o : MemOperand) : Addr × State :=
  (s.effAddr o, s.addCycles (s.extraCycles cls o))

/-- What a read-class handler receives in a memory mode (R93): the byte at EA, read at no cycle (D5). -/
def State.loadOperand (s : State) (o : MemOperand) : Byte × State :=
  let r := s.resolve .read o
  (r.2.readByte r.1, r.2)

/-- A store-class instruction in a memory mode (R93, R140, R141): the byte written at EA. -/
def State.storeOperand (s : State) (o : MemOperand) (v : Byte) : State :=
  let r := s.resolve .store o
  r.2.writeByte r.1 v

end Sys2Proof.Machine
end

