-- ==== Sys2Proof/Machine/Adc.lean ====
section
/-! DEFINITION. The meanings of ADC (R120 to R122, 42_adc.md). -/

namespace Sys2Proof.Machine

/-- `ADC(m)` (R120): binary whatever P.D is (R122). A is read before it is written. -/
def State.adc (s : State) (m : Byte) : State :=
  let c := s.flag .c
  let r := adcResult s.a m c
  let t := (s.putFlag .c (adcCarry s.a m c)).putFlag .v (adcOverflow s.a m r)
  { t with a := r }.setZN r

/-- ADC with an operand in memory (R93, R120). -/
def State.adcMem (s : State) (o : MemOperand) : State :=
  let r := s.loadOperand o
  r.2.adc r.1

/-- ADC Immediate (R83; R120). -/
def execAdcImm (v : Byte) (s : State) : Result :=
  .next (s.adc v)

/-- ADC Zero Page (R84; R120). -/
def execAdcZp (b : Byte) (s : State) : Result :=
  .next (s.adcMem (.zeroPage b))

/-- ADC Zero Page,X (R85; R120). -/
def execAdcZpX (b : Byte) (s : State) : Result :=
  .next (s.adcMem (.zeroPageX b))

/-- ADC Absolute (R87; R120). -/
def execAdcAbs (a : Addr) (s : State) : Result :=
  .next (s.adcMem (.absolute a))

/-- ADC Absolute,X (R88, R89; R120). -/
def execAdcAbsX (a : Addr) (s : State) : Result :=
  .next (s.adcMem (.absoluteX a))

/-- ADC Absolute,Y (R88, R89; R120). -/
def execAdcAbsY (a : Addr) (s : State) : Result :=
  .next (s.adcMem (.absoluteY a))

/-- ADC (Indirect,X) (R90; R120). -/
def execAdcIndX (b : Byte) (s : State) : Result :=
  .next (s.adcMem (.indirectX b))

/-- ADC (Indirect),Y (R91; R120). -/
def execAdcIndY (b : Byte) (s : State) : Result :=
  .next (s.adcMem (.indirectY b))

end Sys2Proof.Machine
end

