-- ==== Sys2Proof/Machine/Loads.lean ====
section
/-! DEFINITION. The meanings of LDA, LDX and LDY (R130 to R132, 43_loads.md). -/

namespace Sys2Proof.Machine

/-- `LDA(m)` (R130). -/
def State.lda (s : State) (m : Byte) : State := { s with a := m }.setZN m

/-- LDA with an operand in memory (R93, R130): the address is formed before A is written. -/
def State.ldaMem (s : State) (o : MemOperand) : State :=
  let r := s.loadOperand o
  r.2.lda r.1

/-- LDA Immediate (R83; R130). -/
def execLdaImm (v : Byte) (s : State) : Result :=
  .next (s.lda v)

/-- LDA Zero Page (R84; R130). -/
def execLdaZp (b : Byte) (s : State) : Result :=
  .next (s.ldaMem (.zeroPage b))

/-- LDA Zero Page,X (R85; R130). -/
def execLdaZpX (b : Byte) (s : State) : Result :=
  .next (s.ldaMem (.zeroPageX b))

/-- LDA Absolute (R87; R130). -/
def execLdaAbs (a : Addr) (s : State) : Result :=
  .next (s.ldaMem (.absolute a))

/-- LDA Absolute,X (R88, R89; R130). -/
def execLdaAbsX (a : Addr) (s : State) : Result :=
  .next (s.ldaMem (.absoluteX a))

/-- LDA Absolute,Y (R88, R89; R130). -/
def execLdaAbsY (a : Addr) (s : State) : Result :=
  .next (s.ldaMem (.absoluteY a))

/-- LDA (Indirect,X) (R90; R130). -/
def execLdaIndX (b : Byte) (s : State) : Result :=
  .next (s.ldaMem (.indirectX b))

/-- LDA (Indirect),Y (R91; R130). -/
def execLdaIndY (b : Byte) (s : State) : Result :=
  .next (s.ldaMem (.indirectY b))

/-- `LDX(m)` (R131). -/
def State.ldx (s : State) (m : Byte) : State := { s with x := m }.setZN m

/-- LDX with an operand in memory (R93, R131): the address is formed before X is written. -/
def State.ldxMem (s : State) (o : MemOperand) : State :=
  let r := s.loadOperand o
  r.2.ldx r.1

/-- LDX Immediate (R83; R131). -/
def execLdxImm (v : Byte) (s : State) : Result :=
  .next (s.ldx v)

/-- LDX Zero Page (R84; R131). -/
def execLdxZp (b : Byte) (s : State) : Result :=
  .next (s.ldxMem (.zeroPage b))

/-- LDX Zero Page,Y (R86; R131). -/
def execLdxZpY (b : Byte) (s : State) : Result :=
  .next (s.ldxMem (.zeroPageY b))

/-- LDX Absolute (R87; R131). -/
def execLdxAbs (a : Addr) (s : State) : Result :=
  .next (s.ldxMem (.absolute a))

/-- LDX Absolute,Y (R88, R89; R131). -/
def execLdxAbsY (a : Addr) (s : State) : Result :=
  .next (s.ldxMem (.absoluteY a))

/-- `LDY(m)` (R132). -/
def State.ldy (s : State) (m : Byte) : State := { s with y := m }.setZN m

/-- LDY with an operand in memory (R93, R132): the address is formed before Y is written. -/
def State.ldyMem (s : State) (o : MemOperand) : State :=
  let r := s.loadOperand o
  r.2.ldy r.1

/-- LDY Immediate (R83; R132). -/
def execLdyImm (v : Byte) (s : State) : Result :=
  .next (s.ldy v)

/-- LDY Zero Page (R84; R132). -/
def execLdyZp (b : Byte) (s : State) : Result :=
  .next (s.ldyMem (.zeroPage b))

/-- LDY Zero Page,X (R85; R132). -/
def execLdyZpX (b : Byte) (s : State) : Result :=
  .next (s.ldyMem (.zeroPageX b))

/-- LDY Absolute (R87; R132). -/
def execLdyAbs (a : Addr) (s : State) : Result :=
  .next (s.ldyMem (.absolute a))

/-- LDY Absolute,X (R88, R89; R132). -/
def execLdyAbsX (a : Addr) (s : State) : Result :=
  .next (s.ldyMem (.absoluteX a))

end Sys2Proof.Machine
end

