-- ==== Sys2Proof/Machine/Nop.lean ====
section
/-! DEFINITION. The meaning of NOP (R150, 45_nop.md). -/

namespace Sys2Proof.Machine

/-- NOP (R150): one cycle beyond the opcode fetch, no register, flag or memory effect. -/
def execNop (s : State) : Result := .next (s.addCycles 1)

end Sys2Proof.Machine
end

