-- ==== Sys2Proof/Machine/Stores.lean ====
section
/-! DEFINITION. The meanings of STA and STX (R140, R141, 44_stores.md): one byte at EA, no flag. -/

namespace Sys2Proof.Machine

/-- STA Zero Page (R84; R140). -/
def execStaZp (b : Byte) (s : State) : Result :=
  .next (s.storeOperand (.zeroPage b) s.a)

/-- STA Zero Page,X (R85; R140). -/
def execStaZpX (b : Byte) (s : State) : Result :=
  .next (s.storeOperand (.zeroPageX b) s.a)

/-- STA Absolute (R87; R140). -/
def execStaAbs (a : Addr) (s : State) : Result :=
  .next (s.storeOperand (.absolute a) s.a)

/-- STA Absolute,X (R88, R89; R140). -/
def execStaAbsX (a : Addr) (s : State) : Result :=
  .next (s.storeOperand (.absoluteX a) s.a)

/-- STA Absolute,Y (R88, R89; R140). -/
def execStaAbsY (a : Addr) (s : State) : Result :=
  .next (s.storeOperand (.absoluteY a) s.a)

/-- STA (Indirect,X) (R90; R140). -/
def execStaIndX (b : Byte) (s : State) : Result :=
  .next (s.storeOperand (.indirectX b) s.a)

/-- STA (Indirect),Y (R91; R140). -/
def execStaIndY (b : Byte) (s : State) : Result :=
  .next (s.storeOperand (.indirectY b) s.a)

/-- STX Zero Page (R84; R141). -/
def execStxZp (b : Byte) (s : State) : Result :=
  .next (s.storeOperand (.zeroPage b) s.x)

/-- STX Zero Page,Y (R86; R141). -/
def execStxZpY (b : Byte) (s : State) : Result :=
  .next (s.storeOperand (.zeroPageY b) s.x)

/-- STX Absolute (R87; R141). -/
def execStxAbs (a : Addr) (s : State) : Result :=
  .next (s.storeOperand (.absolute a) s.x)

end Sys2Proof.Machine
end

