-- ==== Sys2Proof/Machine/Fetch.lean ====
section
/-! DEFINITION. Fetching an instruction (R80, R100): the opcode byte, then as many operand bytes as it announces,
each by the one fetch primitive. And placing a table word where the next step fetches. -/

namespace Sys2Proof.Machine

/-- `n` calls of `FetchByte()`, the bytes in order. -/
def State.fetchBytes : Nat → State → List Byte × State
  | 0, s => ([], s)
  | n + 1, s =>
    let r := s.afterFetch.fetchBytes n
    (s.readByte s.pc :: r.1, r.2)

/-- The opcode fetch, the table lookup and the operand fetches (R63, R100): the instruction or the error, and the
state after the fetches. An unsupported opcode fetches that byte only (R66, R103). -/
def State.fetchInstr (s : State) : Except Fault Instr × State :=
  let op := s.fetchByte
  let bs := op.2.fetchBytes (operandCount op.1)
  match decode (op.1 :: bs.1) with
  | .ok (i, _) => (.ok i, bs.2)
  | .error _ => (.error (.unsupportedOpcode op.1), bs.2)

/-- A table word's bytes stored at PC and the addresses after it, mod 65536, in a state whose next step fetches
(R186's mark set). Used by the host's check only. -/
def State.placeWord (s : State) (nbits w : Nat) : State :=
  { s with mem := s.mem.writeBytes s.pc (tableBytes nbits w), bootstrapped := true }

end Sys2Proof.Machine
end

