-- ==== Sys2Proof/Machine/Step.lean ====
section
/-! DEFINITION. One step of the core (R100 to R108, 41_dispatch.md). -/

namespace Sys2Proof.Machine

/-- `Step()` (R100): drain, fetch, look up, execute; an opcode byte with no entry ends the step with the error
recorded and the state of R161. Before bootstrap the model refuses (R186, D17). -/
def step (s : State) : Host.Outcome State Fault Refusal :=
  if s.bootstrapped then
    match s.startStep.fetchInstr with
    | (.ok i, t) => exec i t
    | (.error f, t) => .next (t.raise f)
  else .refused .stepBeforeBootstrap

/-- The state with a table word stored where `step` fetches its next instruction. -/
def State.withFetchWord (s : State) (nbits w : Nat) : State := s.placeWord nbits w

end Sys2Proof.Machine
end

