-- ==== Sys2Proof/Machine/Reference.lean ====
section
/-! DEFINITION. The spec's own step, as its pseudocode writes it: the instruction table as (mnemonic, mode) pairs
(R64), each mode resolved byte by byte with `FetchByte()` inside (R82 to R91), then the handler (R100, R107); and
the cycle table of R191. The machine runs `step`; statements hold `step` against this. -/

namespace Sys2Proof.Machine

/-- A row of R64 as the spec prints it: opcode, mnemonic, mode. -/
abbrev SpecRow := Byte × Mnemonic × Mode

/-- The rows of ADC (R64). -/
def specAdcRows : List SpecRow :=
  [(0x69#8, .adc, .immediate), (0x65#8, .adc, .zeroPage), (0x75#8, .adc, .zeroPageX),
   (0x6D#8, .adc, .absolute), (0x7D#8, .adc, .absoluteX), (0x79#8, .adc, .absoluteY),
   (0x61#8, .adc, .indirectX), (0x71#8, .adc, .indirectY)]

/-- The rows of LDA (R64). -/
def specLdaRows : List SpecRow :=
  [(0xA9#8, .lda, .immediate), (0xA5#8, .lda, .zeroPage), (0xB5#8, .lda, .zeroPageX),
   (0xAD#8, .lda, .absolute), (0xBD#8, .lda, .absoluteX), (0xB9#8, .lda, .absoluteY),
   (0xA1#8, .lda, .indirectX), (0xB1#8, .lda, .indirectY)]

/-- The rows of LDX (R64). -/
def specLdxRows : List SpecRow :=
  [(0xA2#8, .ldx, .immediate), (0xA6#8, .ldx, .zeroPage), (0xB6#8, .ldx, .zeroPageY),
   (0xAE#8, .ldx, .absolute), (0xBE#8, .ldx, .absoluteY)]

/-- The rows of LDY (R64). -/
def specLdyRows : List SpecRow :=
  [(0xA0#8, .ldy, .immediate), (0xA4#8, .ldy, .zeroPage), (0xB4#8, .ldy, .zeroPageX),
   (0xAC#8, .ldy, .absolute), (0xBC#8, .ldy, .absoluteX)]

/-- The rows of STA (R64). -/
def specStaRows : List SpecRow :=
  [(0x85#8, .sta, .zeroPage), (0x95#8, .sta, .zeroPageX), (0x8D#8, .sta, .absolute),
   (0x9D#8, .sta, .absoluteX), (0x99#8, .sta, .absoluteY), (0x81#8, .sta, .indirectX),
   (0x91#8, .sta, .indirectY)]

/-- The rows of STX (R64). -/
def specStxRows : List SpecRow :=
  [(0x86#8, .stx, .zeroPage), (0x96#8, .stx, .zeroPageY), (0x8E#8, .stx, .absolute)]

/-- The 37 rows of R64. -/
def specTable : List SpecRow :=
  specAdcRows ++ specLdaRows ++ specLdxRows ++ specLdyRows ++ specStaRows ++ specStxRows ++ [(0xEA#8, .nop, .implied)]

/-- `TABLE[op]` among the rows given (R100). -/
def specEntry (op : Byte) : List SpecRow → Option (Mnemonic × Mode)
  | [] => none
  | row :: rows => if row.1 = op then some row.2 else specEntry op rows

/-- Store-class or read-class (glossary, R89). -/
def accessClass : Mnemonic → AccessClass
  | .sta | .stx => .store
  | .adc | .lda | .ldx | .ldy | .nop => .read

/-- What `Resolve(mode)` returns (R81). -/
inductive Resolved where
  | nothing
  | value (v : Byte)
  | address (ea : Addr)
deriving DecidableEq, Repr

/-- `Resolve(AbsoluteIdx, idx)` with the cycles of R89 (R88, R89). -/
def specAbsoluteIndexed (cls : AccessClass) (idx : Byte) (s : State) : Resolved × State :=
  let lsb := s.fetchByte
  let msb := lsb.2.fetchByte
  let ea := BitVec.ofNat 16 ((compose16 msb.1 lsb.1).toNat + idx.toNat)
  let extra := if cls = .store then 1 else if lsb.1.toNat + idx.toNat > 255 then 1 else 0
  (.address ea, msb.2.addCycles extra)

/-- `PtrRead(p)` for a zero-page address as a number (R92). -/
def specPointer (s : State) (p : Nat) : Addr :=
  let hi := if s.cfg.zpPtrWrap then (p + 1) % 256 else p + 1
  compose16 (s.readByte (BitVec.ofNat 16 hi)) (s.readByte (BitVec.ofNat 16 p))

/-- `Resolve(mode)` (R82 to R91). -/
def specResolve (cls : AccessClass) (s : State) : Mode → Resolved × State
  | .implied => (.nothing, s)
  | .immediate => (.value s.fetchByte.1, s.fetchByte.2)
  | .zeroPage =>
    let b := s.fetchByte
    (.address (BitVec.ofNat 16 b.1.toNat), b.2.addCycles 1)
  | .zeroPageX =>
    let b := s.fetchByte
    (.address (BitVec.ofNat 16 ((b.1.toNat + s.x.toNat) % 256)), b.2.addCycles 2)
  | .zeroPageY =>
    let b := s.fetchByte
    (.address (BitVec.ofNat 16 ((b.1.toNat + s.y.toNat) % 256)), b.2.addCycles 3)
  | .absolute =>
    let lsb := s.fetchByte
    let msb := lsb.2.fetchByte
    (.address (compose16 msb.1 lsb.1), msb.2)
  | .absoluteX => specAbsoluteIndexed cls s.x s
  | .absoluteY => specAbsoluteIndexed cls s.y s
  | .indirectX =>
    let b := s.fetchByte
    let sum := b.1.toNat + s.x.toNat
    (.address (specPointer s (sum % 256)), b.2.addCycles (if sum > 255 then 1 else 0))
  | .indirectY =>
    let b := s.fetchByte
    let base := specPointer s b.1.toNat
    let crossed := s.cfg.indyPagePenalty && decide (base.toNat % 256 + s.y.toNat > 255)
    (.address (BitVec.ofNat 16 (base.toNat + s.y.toNat)), b.2.addCycles (if crossed then 1 else 0))

/-- `Execute(mnemonic, mode, r)` (R93, R107). A pair the table does not hold does nothing; none is met (R93). -/
def specExecute (s : State) : Mnemonic → Resolved → State
  | .adc, .value m => s.adc m
  | .adc, .address ea => s.adc (s.readByte ea)
  | .lda, .value m => s.lda m
  | .lda, .address ea => s.lda (s.readByte ea)
  | .ldx, .value m => s.ldx m
  | .ldx, .address ea => s.ldx (s.readByte ea)
  | .ldy, .value m => s.ldy m
  | .ldy, .address ea => s.ldy (s.readByte ea)
  | .sta, .address ea => s.writeByte ea s.a
  | .stx, .address ea => s.writeByte ea s.x
  | .nop, .nothing => s.addCycles 1
  | _, _ => s

/-- `Step()` (R100). -/
def specStep (s : State) : State :=
  let op := s.startStep.fetchByte
  match specEntry op.1 specTable with
  | none => op.2.raise (.unsupportedOpcode op.1)
  | some (m, mode) =>
    let r := specResolve (accessClass m) op.2 mode
    specExecute r.2 m r.1

/-- Two values of a cost, the second when the condition holds. -/
def costIf (crossed : Bool) (n : Nat) : Nat := if crossed then n + 1 else n

/-- The cycle cost of every instruction (R191), on the state at the start of its step. -/
def cycleCost (s : State) : Instr → Nat
  | .nop => 2
  | .adcImm _ | .ldaImm _ | .ldxImm _ | .ldyImm _ => 2
  | .adcZp _ | .ldaZp _ | .ldxZp _ | .ldyZp _ | .staZp _ | .stxZp _ => 3
  | .adcZpX _ | .ldaZpX _ | .ldyZpX _ | .staZpX _ => 4
  | .ldxZpY _ | .stxZpY _ => 5
  | .adcAbs _ | .ldaAbs _ | .ldxAbs _ | .ldyAbs _ | .staAbs _ | .stxAbs _ => 3
  | .staAbsX _ | .staAbsY _ => 4
  | .adcAbsX a | .ldaAbsX a | .ldyAbsX a => costIf (decide ((loByte a).toNat + s.x.toNat > 255)) 3
  | .adcAbsY a | .ldaAbsY a | .ldxAbsY a => costIf (decide ((loByte a).toNat + s.y.toNat > 255)) 3
  | .adcIndX b | .ldaIndX b | .staIndX b => costIf (decide (b.toNat + s.x.toNat > 255)) 2
  | .adcIndY b | .ldaIndY b | .staIndY b => costIf (s.cfg.indyPagePenalty && decide ((s.readByte (zext16 b)).toNat + s.y.toNat > 255)) 2

end Sys2Proof.Machine
end

