-- ==== Sys2Proof/Machine/Boot.lean ====
section
/-! DEFINITION. The host's operations between steps (70_reset_and_hazards.md): the program image, load_program and
bootstrap, in the boot order of R186. Construction is `State.construct`; inspection (R34) is State's fields and
`State.readByte`. -/

namespace Sys2Proof.Machine

/-- The load address (R6, R183). -/
def loadAddress : Addr := 0x8000#16

/-- The reset vector's address (R6, R50). -/
def resetVector : Addr := 0xFFFC#16

/-- The most bytes an image or a program has (R183, R184). -/
def imageSize : Nat := 32768

/-- `BuildImage(prog)` (R184): zero fill, then the program, then the vector over it (D20). -/
def buildImage (prog : List Byte) : Option (List Byte) :=
  if prog.length ≤ imageSize then
    some (((prog ++ List.replicate (imageSize - prog.length) 0x00#8).set 0x7FFC 0x00#8).set 0x7FFD 0x80#8)
  else none

/-- `load_program(bytes)` (R183): the bytes from 0x8000 on; more than 32768 of them are refused (D21). -/
def State.loadProgram (s : State) (bytes : List Byte) : Result :=
  if bytes.length ≤ imageSize then .next { s with mem := s.mem.writeBytes loadAddress bytes }
  else .refused .programTooLong

/-- `bootstrap()` (R185): PC from the reset vector, no other register, flag, memory byte or cycle; and the mark
of R186. -/
def State.bootstrap (s : State) : State :=
  { s with pc := s.mem.read16 resetVector, bootstrapped := true }

/-- The boot order of R186 for a program: construct, load the program's image, bootstrap. -/
def boot (cfg : Config) (initMem : Memory) (prog : List Byte) : Result :=
  match buildImage prog with
  | none => .refused .programTooLong
  | some img =>
    match (State.construct cfg initMem).loadProgram img with
    | .next s => .next s.bootstrap
    | r => r

end Sys2Proof.Machine
end

