-- ==== Sys2Proof/Machine/Run.lean ====
section
/-! DEFINITION. `run()` at its interface (R187 to R189): steps until the host cancels, here after a budget of steps
(STEP_BUDGET, R7), stopping at the first error (D25). -/

namespace Sys2Proof.Machine

/-- What `run()` gives back: the first error, or nothing when cancelled (R189, D25), with the state it ends in.
The host may only call it after bootstrap; a step before that is refused (R186). -/
def run : Nat → State → Host.Outcome (State × Option Fault) Fault Refusal
  | 0, s => .next (s, none)
  | k + 1, s =>
    match step s with
    | .next t =>
      match t.result with
      | some (.error f) => .next (t, some f)
      | _ => run k t
    | .fault f => .fault f
    | .refused r => .refused r

end Sys2Proof.Machine
end

