-- ==== Sys2Proof/Safety.lean ====
section
/-! DEFINITION. The terms claims use: what a run keeps (the invariant), a run with no error recorded, completing
with an effect, and the effect and frame of each family of instructions. -/

namespace Sys2Proof.Machine

/-- What construction establishes and every later operation keeps, in a session with a canonical memory. -/
structure State.Inv (s : State) : Prop where
  /-- The memory is in canonical form. -/
  memory : s.mem.wf = true
  /-- SP holds its construction value for the whole session (R23). -/
  stackPointer : s.sp = 0xFF#8
  /-- I, D, B and bit 5 of P keep their construction value 0 (R26, R30). -/
  unusedFlags : s.p &&& 0x3C#8 = 0#8
  /-- No step costs more than five cycles (R191). -/
  cycles : s.cyc ≤ 5
  /-- A reported error is recorded (R163). -/
  recorded : ∀ f, s.result = some (.error f) → s.faultRecord ≠ none
  /-- The record names a byte the table has no entry for (R160). -/
  unsupported : ∀ op, s.faultRecord = some (.unsupportedOpcode op) → lookup op = none

/-- "No fault recorded": the premise of a claim of correct execution (D22). -/
def State.Clean (s : State) : Prop := s.faultRecord = none

/-- The instruction answers a next state, and that state has the property. -/
def Completes (i : Instr) (s : State) (effect : State → Prop) : Prop :=
  ∃ t, exec i s = .next t ∧ effect t

/-- What no handler writes: SP, PC (its fetches are over), the flags I, D, B and bit 5 (R26, R30), the
bookkeeping and the parameters. -/
structure Kept (s t : State) : Prop where
  sp : t.sp = s.sp
  pc : t.pc = s.pc
  flagI : t.flag .i = s.flag .i
  flagD : t.flag .d = s.flag .d
  flagB : t.flag .b = s.flag .b
  bit5 : t.p.getLsbD 5 = s.p.getLsbD 5
  bootstrapped : t.bootstrapped = s.bootstrapped
  faultRecord : t.faultRecord = s.faultRecord
  result : t.result = s.result
  cfg : t.cfg = s.cfg

/-- Every byte of memory reads as before. -/
def MemoryKept (s t : State) : Prop := ∀ adr, t.readByte adr = s.readByte adr

/-- Z and N as the value says (R31). -/
def ZNOf (v : Byte) (t : State) : Prop := (t.flag .z = true ↔ v = 0#8) ∧ (t.flag .n = true ↔ v.toNat ≥ 128)

/-- The effect of ADC on the operand value `m`, with `n` cycles of its mode (R120): the frame is the rest. -/
structure AdcEffect (s : State) (m : Byte) (n : Nat) (t : State) : Prop where
  a : t.a.toNat = (s.a.toNat + m.toNat + (s.flag .c).toNat) % 256
  flagC : t.flag .c = true ↔ s.a.toNat + m.toNat + (s.flag .c).toNat > 255
  flagV : t.flag .v = ((s.a ^^^ t.a) &&& (m ^^^ t.a) &&& 0x80#8 != 0#8)
  flagsZN : ZNOf t.a t
  x : t.x = s.x
  y : t.y = s.y
  cyc : t.cyc = s.cyc + n
  memory : MemoryKept s t
  kept : Kept s t

/-- What a load of `m` leaves beside its register, with `n` cycles of its mode (R130 to R132). -/
structure LoadFrame (s : State) (m : Byte) (n : Nat) (t : State) : Prop where
  flagsZN : ZNOf m t
  flagC : t.flag .c = s.flag .c
  flagV : t.flag .v = s.flag .v
  cyc : t.cyc = s.cyc + n
  memory : MemoryKept s t
  kept : Kept s t

/-- LDA (R130). -/
def LdaEffect (s : State) (m : Byte) (n : Nat) (t : State) : Prop :=
  t.a = m ∧ t.x = s.x ∧ t.y = s.y ∧ LoadFrame s m n t

/-- LDX (R131). -/
def LdxEffect (s : State) (m : Byte) (n : Nat) (t : State) : Prop :=
  t.x = m ∧ t.a = s.a ∧ t.y = s.y ∧ LoadFrame s m n t

/-- LDY (R132). -/
def LdyEffect (s : State) (m : Byte) (n : Nat) (t : State) : Prop :=
  t.y = m ∧ t.a = s.a ∧ t.x = s.x ∧ LoadFrame s m n t

/-- A read-class effect on a memory operand: of the byte at its effective address, at its mode's cycles (R93). -/
def FromMemory (effect : State → Byte → Nat → State → Prop) (s : State) (o : MemOperand) (t : State) : Prop :=
  effect s (s.readByte (s.effAddr o)) (s.extraCycles .read o) t

/-- A store of `v` to a memory operand (R140, R141): the byte at its effective address, every other byte as
before, no register and no bit of P. -/
structure StoreEffect (v : Byte) (s : State) (o : MemOperand) (t : State) : Prop where
  stored : t.readByte (s.effAddr o) = v
  elsewhere : ∀ adr, adr ≠ s.effAddr o → t.readByte adr = s.readByte adr
  a : t.a = s.a
  x : t.x = s.x
  y : t.y = s.y
  p : t.p = s.p
  cyc : t.cyc = s.cyc + s.extraCycles .store o
  kept : Kept s t

/-- The bytes at PC and after it, as many as the longest instruction has. -/
def State.bytesAtPc (s : State) : List Byte :=
  [s.readByte s.pc, s.readByte (s.pc + 1), s.readByte (s.pc + 2)]

/-- The state a handler receives (R100, R104): drained, past the instruction's bytes, one cycle for each. -/
def State.fetched (s : State) (i : Instr) : State :=
  { s with pc := s.pc + BitVec.ofNat 16 i.length, cyc := i.length, result := some .ok }

end Sys2Proof.Machine
end

