-- ==== Sys2Proof/Certificates/Slice0/Obligations.lean ====
section
/-! DEFINITION. The statements for the provers, from the numbered rules of spec/. A docstring names the rule; where
a clause rests on a decision the spec marks as its own (D<n>) or on the model's choice (a log entry), it says so. -/

open Sys2Proof Sys2Proof.Machine

/-! ### Construction, reset, loading and boot -/

/-- R32: the state at construction, for any parameters and any INIT_MEM; that P and SP stay so until the first step
is D15 (log entry 7). The two marks of R33 are D17 and D22 (log entries 8, 4). -/
def Obligations.ConstructionState : Prop :=
  ∀ (cfg : Config) (initMem : Memory), ∃ s, s = State.construct cfg initMem ∧
    s.a = 0#8 ∧ s.x = 0#8 ∧ s.y = 0#8 ∧ s.sp = 0xFF#8 ∧ s.pc = 0#16 ∧ s.p = 0#8 ∧ s.cyc = 0 ∧
    s.mem = initMem ∧ (∀ f, s.flag f = false) ∧ s.bootstrapped = false ∧ s.faultRecord = none

/-- R181, R185: reset is construction and then bootstrap. That SP is 0xFF and P 0x00 after bootstrap is D15 (log
entry 7). That memory lists nothing and reads 0x00, so that the vector is 0x0000, and that the parameters are the
defaults, is the model's choice (log entries 1, 2, 5). The two marks are D17 and D22 (log entries 8, 4). -/
def Obligations.ResetState : Prop :=
  State.reset = (State.construct Config.specDefault []).bootstrap ∧
    State.reset.a = 0#8 ∧ State.reset.x = 0#8 ∧ State.reset.y = 0#8 ∧ State.reset.sp = 0xFF#8 ∧
    State.reset.p = 0#8 ∧ State.reset.cyc = 0 ∧ State.reset.pc = 0#16 ∧ State.reset.mem = [] ∧
    State.reset.bootstrapped = true ∧ State.reset.faultRecord = none

/-- R185 (that it may be repeated and costs no cycle is D18, the mark of R186 is D17; log entries 6, 8): PC becomes
the little-endian word at 0xFFFC, the mark is set, nothing else changes. -/
def Obligations.BootstrapEffect : Prop :=
  ∀ s : State,
    s.bootstrap.pc.toNat = (s.readByte 0xFFFC#16).toNat + 256 * (s.readByte 0xFFFD#16).toNat ∧
    s.bootstrap = { s with pc := s.bootstrap.pc, bootstrapped := true }

/-- R183 (the length limit is D21, log entry 8): the bytes from 0x8000 on, every other byte and everything else
unchanged; more than 32768 bytes are refused. -/
def Obligations.LoadProgramEffect : Prop :=
  ∀ (s : State) (bytes : List Byte),
    (bytes.length ≤ 32768 → ∃ t, s.loadProgram bytes = .next t ∧
      (∀ k (h : k < bytes.length), t.readByte (BitVec.ofNat 16 (0x8000 + k)) = bytes[k]) ∧
      (∀ adr : Addr, adr.toNat < 0x8000 ∨ 0x8000 + bytes.length ≤ adr.toNat → t.readByte adr = s.readByte adr) ∧
      t = { s with mem := t.mem }) ∧
    (32768 < bytes.length → s.loadProgram bytes = .refused .programTooLong)

/-- R184 (the fill, the order of the vector's write and the limit are D20, log entries 6, 8). -/
def Obligations.BuildImageContents : Prop :=
  ∀ prog : List Byte,
    (prog.length ≤ 32768 → ∃ img, buildImage prog = some img ∧ img.length = 32768 ∧
      img[0x7FFC]? = some 0x00#8 ∧ img[0x7FFD]? = some 0x80#8 ∧
      ∀ k, k < 32768 → k ≠ 0x7FFC → k ≠ 0x7FFD → img[k]? = some (prog.getD k 0x00#8)) ∧
    (32768 < prog.length → buildImage prog = none)

/-- R182: the state at the first step, for any INIT_MEM and any program (the spec derives it). SP and P are D15 (log
entry 7), the image's fill and limit D20 (log entries 6, 8), that bootstrap costs no cycle D18 (log entry 6), the
mark D17 (log entry 8). -/
def Obligations.BootState : Prop :=
  ∀ (cfg : Config) (initMem : Memory) (prog : List Byte), prog.length ≤ 32768 →
    ∃ img t, buildImage prog = some img ∧ boot cfg initMem prog = .next t ∧
      t.pc = 0x8000#16 ∧ t.a = 0#8 ∧ t.x = 0#8 ∧ t.y = 0#8 ∧ t.sp = 0xFF#8 ∧ t.p = 0#8 ∧ t.cyc = 0 ∧
      t.bootstrapped = true ∧ t.cfg = cfg ∧
      (∀ k, k < 32768 → img[k]? = some (t.readByte (BitVec.ofNat 16 (0x8000 + k)))) ∧
      ∀ adr : Addr, adr.toNat < 0x8000 → t.readByte adr = initMem.read adr

/-! ### Memory -/

/-- R42, R41: a store changes the byte at its address and nothing else. -/
def Obligations.StoreChangesOneByte : Prop :=
  ∀ (s : State) (adr : Addr) (v : Byte),
    (s.writeByte adr v).readByte adr = v ∧
    (∀ b, b ≠ adr → (s.writeByte adr v).readByte b = s.readByte b) ∧
    s.writeByte adr v = { s with mem := (s.writeByte adr v).mem }

/-- R43, R45, R46: the low byte at the lower address, the high byte at the next address mod 65536 (D14, log entry
6). -/
def Obligations.ReadSixteenLittleEndian : Prop :=
  ∀ (m : Memory) (adr : Addr),
    (m.read16 adr).toNat = (m.read adr).toNat + 256 * (m.read (BitVec.ofNat 16 ((adr.toNat + 1) % 65536))).toNat

/-- R52: the canonical list can hold every content of the 65536 bytes, so INIT_MEM (D16) loses nothing (log entry
1). -/
def Obligations.EveryInitMemHasAMemory : Prop :=
  ∀ f : Addr → Byte, ∃ m : Memory, m.wf = true ∧ ∀ adr, m.read adr = f adr

/-- Two canonical memories that read alike are equal, so comparing states compares contents (log entry 1). -/
def Obligations.CanonicalMemoriesReadingAlikeAreEqual : Prop :=
  ∀ m m' : Memory, m.wf = true → m'.wf = true → (∀ adr, m.read adr = m'.read adr) → m = m'

/-! ### Status flags -/

/-- R27: get and set on the byte P, with the masks of R25; set false clears by the mask's complement. -/
def Obligations.FlagBankContract : Prop :=
  ∀ (p : Byte) (f : Flag) (v : Bool),
    getFlag p f = (p &&& f.mask != 0#8) ∧
    setFlag p f true = p ||| f.mask ∧ setFlag p f false = p &&& (0xFF#8 ^^^ f.mask) ∧
    getFlag (setFlag p f v) f = v ∧
    Flag.mask .c = 0x01#8 ∧ Flag.mask .z = 0x02#8 ∧ Flag.mask .i = 0x04#8 ∧ Flag.mask .d = 0x08#8 ∧
    Flag.mask .b = 0x10#8 ∧ Flag.mask .v = 0x40#8 ∧ Flag.mask .n = 0x80#8

/-- R28: setting one flag changes no other flag, and no bit but its own. -/
def Obligations.FlagsAreIndependent : Prop :=
  ∀ (p : Byte) (f : Flag) (v : Bool),
    (∀ g, g ≠ f → getFlag (setFlag p f v) g = getFlag p g) ∧
    ∀ k, f.mask.getLsbD k = false → (setFlag p f v).getLsbD k = p.getLsbD k

/-- R31: SetZN writes Z and N from the byte and no other bit of P. -/
def Obligations.SetZNRule : Prop :=
  ∀ (s : State) (v : Byte),
    ZNOf v (s.setZN v) ∧ (∀ k, k ≠ 1 → k ≠ 7 → (s.setZN v).p.getLsbD k = s.p.getLsbD k) ∧
    s.setZN v = { s with p := (s.setZN v).p }

/-! ### Addressing modes -/

/-- R84, R85, R86: one operand byte, the zero-page sum mod 256, and the extra cycles; that Zero Page,Y adds 3 is
the spec's own choice I9 (log entry 6). -/
def Obligations.ZeroPageModes : Prop :=
  ∀ (s : State) (cls : AccessClass) (b : Byte),
    ((MemOperand.zeroPage b).bytes = [b] ∧ (s.effAddr (.zeroPage b)).toNat = b.toNat ∧
      s.extraCycles cls (.zeroPage b) = 1) ∧
    ((MemOperand.zeroPageX b).bytes = [b] ∧ (s.effAddr (.zeroPageX b)).toNat = (b.toNat + s.x.toNat) % 256 ∧
      s.extraCycles cls (.zeroPageX b) = 2) ∧
    ((MemOperand.zeroPageY b).bytes = [b] ∧ (s.effAddr (.zeroPageY b)).toNat = (b.toNat + s.y.toNat) % 256 ∧
      s.extraCycles cls (.zeroPageY b) = 3)

/-- R87, R88, R89: two operand bytes, low first (D4), the address mod 65536, and the one extra cycle of a crossed
page or of any store (D9); log entry 6. -/
def Obligations.AbsoluteModes : Prop :=
  ∀ (s : State) (lsb msb : Byte),
    let adr := compose16 msb lsb
    adr.toNat = 256 * msb.toNat + lsb.toNat ∧
    (MemOperand.absolute adr).bytes = [lsb, msb] ∧ (MemOperand.absoluteX adr).bytes = [lsb, msb] ∧
    (MemOperand.absoluteY adr).bytes = [lsb, msb] ∧
    s.effAddr (.absolute adr) = adr ∧
    (s.effAddr (.absoluteX adr)).toNat = (adr.toNat + s.x.toNat) % 65536 ∧
    (s.effAddr (.absoluteY adr)).toNat = (adr.toNat + s.y.toNat) % 65536 ∧
    (∀ cls, s.extraCycles cls (.absolute adr) = 0) ∧
    s.extraCycles .store (.absoluteX adr) = 1 ∧ s.extraCycles .store (.absoluteY adr) = 1 ∧
    s.extraCycles .read (.absoluteX adr) = (if lsb.toNat + s.x.toNat > 255 then 1 else 0) ∧
    s.extraCycles .read (.absoluteY adr) = (if lsb.toNat + s.y.toNat > 255 then 1 else 0)

/-- R90, R91, R92: X indexes the pointer's address inside the zero page, Y its value mod 65536 (D8, log entry 6).
The high byte of a pointer at 0xFF follows ZP_PTR_WRAP (D6, log entry 5). The extra cycles are D7 (log entry 6) and
INDY_PAGE_PENALTY (D8, log entry 5), and the pointer reads cost none (D5, log entry 6). -/
def Obligations.IndirectModes : Prop :=
  ∀ (s : State) (cls : AccessClass) (b : Byte),
    let word (p : Nat) : Nat := (s.readByte (BitVec.ofNat 16 p)).toNat +
      256 * (s.readByte (BitVec.ofNat 16 (if s.cfg.zpPtrWrap = true then (p + 1) % 256 else p + 1))).toNat
    ((MemOperand.indirectX b).bytes = [b] ∧
      (s.effAddr (.indirectX b)).toNat = word ((b.toNat + s.x.toNat) % 256) ∧
      s.extraCycles cls (.indirectX b) = (if b.toNat + s.x.toNat > 255 then 1 else 0)) ∧
    ((MemOperand.indirectY b).bytes = [b] ∧
      (s.effAddr (.indirectY b)).toNat = (word b.toNat + s.y.toNat) % 65536 ∧
      s.extraCycles cls (.indirectY b) =
        (if s.cfg.indyPagePenalty = true ∧ word b.toNat % 256 + s.y.toNat > 255 then 1 else 0))

/-- R81: resolving a memory mode gives its address and changes no state but the accumulator. -/
def Obligations.ResolveChangesOnlyCycles : Prop :=
  ∀ (s : State) (cls : AccessClass) (o : MemOperand),
    (s.resolve cls o).1 = s.effAddr o ∧ (s.resolve cls o).2 = { s with cyc := s.cyc + s.extraCycles cls o }

/-! ### The instructions: completion, result and frame -/

/-- R120: every ADC form completes with the sum, the four flags and the frame. The C and V formulas are D10, the
opcode bytes D1, the low address byte first in adcAbs, adcAbsX and adcAbsY D4 (R120 lists no operand order), and
that reading the operand costs no cycle D5; log entry 6. Beyond that the modes' addresses and cycles rest on D6 to
D9 (log entries 5, 6). -/
def Obligations.AdcCompletes : Prop :=
  ∀ (s : State) (v b : Byte) (adr : Addr),
    (encode (.adcImm v) = [0x69#8, v] ∧ Completes (.adcImm v) s (AdcEffect s v 0)) ∧
    (encode (.adcZp b) = [0x65#8, b] ∧ Completes (.adcZp b) s (FromMemory AdcEffect s (.zeroPage b))) ∧
    (encode (.adcZpX b) = [0x75#8, b] ∧ Completes (.adcZpX b) s (FromMemory AdcEffect s (.zeroPageX b))) ∧
    (encode (.adcAbs adr) = [0x6D#8, loByte adr, hiByte adr] ∧
      Completes (.adcAbs adr) s (FromMemory AdcEffect s (.absolute adr))) ∧
    (encode (.adcAbsX adr) = [0x7D#8, loByte adr, hiByte adr] ∧
      Completes (.adcAbsX adr) s (FromMemory AdcEffect s (.absoluteX adr))) ∧
    (encode (.adcAbsY adr) = [0x79#8, loByte adr, hiByte adr] ∧
      Completes (.adcAbsY adr) s (FromMemory AdcEffect s (.absoluteY adr))) ∧
    (encode (.adcIndX b) = [0x61#8, b] ∧ Completes (.adcIndX b) s (FromMemory AdcEffect s (.indirectX b))) ∧
    (encode (.adcIndY b) = [0x71#8, b] ∧ Completes (.adcIndY b) s (FromMemory AdcEffect s (.indirectY b)))

/-- R121 (general knowledge, D10, log entry 6): V is 1 exactly when the sum of A and m as two's-complement numbers,
plus the carry, lies outside -128..127; and exactly when A and m agree in bit 7 and the result does not. -/
def Obligations.AdcOverflowIsSigned : Prop :=
  ∀ (s : State) (m : Byte),
    ((s.adc m).flag .v = true ↔
      s.a.toInt + m.toInt + (s.flag .c).toNat < -128 ∨ 127 < s.a.toInt + m.toInt + (s.flag .c).toNat) ∧
    ((s.adc m).flag .v = true ↔ s.a.msb = m.msb ∧ (s.adc m).a.msb ≠ s.a.msb)

/-- R122 (D10, log entry 6): ADC of any form computes in binary whatever P.D is: setting or clearing D before it
only sets or clears D after it. -/
def Obligations.AdcIgnoresDecimal : Prop :=
  ∀ (i : Instr) (s : State) (d : Bool), i.mnemonic = .adc →
    ∃ t, exec i s = .next t ∧ exec i (s.putFlag .d d) = .next (t.putFlag .d d)

/-- R130: every LDA form completes with the value, Z and N, and the frame. The opcode bytes but 0xA9 are D1, the low
address byte first in ldaAbs, ldaAbsX and ldaAbsY is D4 (R130 lists no operand order), and that reading the operand
costs no cycle is D5; log entry 6. Beyond that the modes' addresses and cycles rest on D6 to D9 (log entries 5, 6).
-/
def Obligations.LdaCompletes : Prop :=
  ∀ (s : State) (v b : Byte) (adr : Addr),
    (encode (.ldaImm v) = [0xA9#8, v] ∧ Completes (.ldaImm v) s (LdaEffect s v 0)) ∧
    (encode (.ldaZp b) = [0xA5#8, b] ∧ Completes (.ldaZp b) s (FromMemory LdaEffect s (.zeroPage b))) ∧
    (encode (.ldaZpX b) = [0xB5#8, b] ∧ Completes (.ldaZpX b) s (FromMemory LdaEffect s (.zeroPageX b))) ∧
    (encode (.ldaAbs adr) = [0xAD#8, loByte adr, hiByte adr] ∧
      Completes (.ldaAbs adr) s (FromMemory LdaEffect s (.absolute adr))) ∧
    (encode (.ldaAbsX adr) = [0xBD#8, loByte adr, hiByte adr] ∧
      Completes (.ldaAbsX adr) s (FromMemory LdaEffect s (.absoluteX adr))) ∧
    (encode (.ldaAbsY adr) = [0xB9#8, loByte adr, hiByte adr] ∧
      Completes (.ldaAbsY adr) s (FromMemory LdaEffect s (.absoluteY adr))) ∧
    (encode (.ldaIndX b) = [0xA1#8, b] ∧ Completes (.ldaIndX b) s (FromMemory LdaEffect s (.indirectX b))) ∧
    (encode (.ldaIndY b) = [0xB1#8, b] ∧ Completes (.ldaIndY b) s (FromMemory LdaEffect s (.indirectY b)))

/-- R131: every LDX form completes with the value, Z and N, and the frame. The opcode bytes but 0xA2 are D1, the low
address byte first in ldxAbs and ldxAbsY is D4 (R131 lists no operand order), and that reading the operand costs no
cycle is D5; log entry 6. Beyond that the modes' cycles rest on D9 and I9 (log entry 6). -/
def Obligations.LdxCompletes : Prop :=
  ∀ (s : State) (v b : Byte) (adr : Addr),
    (encode (.ldxImm v) = [0xA2#8, v] ∧ Completes (.ldxImm v) s (LdxEffect s v 0)) ∧
    (encode (.ldxZp b) = [0xA6#8, b] ∧ Completes (.ldxZp b) s (FromMemory LdxEffect s (.zeroPage b))) ∧
    (encode (.ldxZpY b) = [0xB6#8, b] ∧ Completes (.ldxZpY b) s (FromMemory LdxEffect s (.zeroPageY b))) ∧
    (encode (.ldxAbs adr) = [0xAE#8, loByte adr, hiByte adr] ∧
      Completes (.ldxAbs adr) s (FromMemory LdxEffect s (.absolute adr))) ∧
    (encode (.ldxAbsY adr) = [0xBE#8, loByte adr, hiByte adr] ∧
      Completes (.ldxAbsY adr) s (FromMemory LdxEffect s (.absoluteY adr)))

/-- R132: every LDY form completes with the value, Z and N, and the frame. The opcode bytes are D1, the low address
byte first in ldyAbs and ldyAbsX is D4 (R132 lists no operand order), and that reading the operand costs no cycle is
D5; log entry 6. Beyond that the modes' cycles rest on D9 (log entry 6). -/
def Obligations.LdyCompletes : Prop :=
  ∀ (s : State) (v b : Byte) (adr : Addr),
    (encode (.ldyImm v) = [0xA0#8, v] ∧ Completes (.ldyImm v) s (LdyEffect s v 0)) ∧
    (encode (.ldyZp b) = [0xA4#8, b] ∧ Completes (.ldyZp b) s (FromMemory LdyEffect s (.zeroPage b))) ∧
    (encode (.ldyZpX b) = [0xB4#8, b] ∧ Completes (.ldyZpX b) s (FromMemory LdyEffect s (.zeroPageX b))) ∧
    (encode (.ldyAbs adr) = [0xAC#8, loByte adr, hiByte adr] ∧
      Completes (.ldyAbs adr) s (FromMemory LdyEffect s (.absolute adr))) ∧
    (encode (.ldyAbsX adr) = [0xBC#8, loByte adr, hiByte adr] ∧
      Completes (.ldyAbsX adr) s (FromMemory LdyEffect s (.absoluteX adr)))

/-- R140: every STA form stores A at its effective address. The opcode bytes but 0x85 and 0x95 are D1, the low
address byte first in staAbs, staAbsX and staAbsY is D4 (R140 lists no operand order), and that the store itself
costs no cycle is D5 and D11; log entry 6. Beyond that the modes' addresses and cycles rest on D6 to D9 (log entries
5, 6). -/
def Obligations.StaCompletes : Prop :=
  ∀ (s : State) (b : Byte) (adr : Addr),
    (encode (.staZp b) = [0x85#8, b] ∧ Completes (.staZp b) s (StoreEffect s.a s (.zeroPage b))) ∧
    (encode (.staZpX b) = [0x95#8, b] ∧ Completes (.staZpX b) s (StoreEffect s.a s (.zeroPageX b))) ∧
    (encode (.staAbs adr) = [0x8D#8, loByte adr, hiByte adr] ∧
      Completes (.staAbs adr) s (StoreEffect s.a s (.absolute adr))) ∧
    (encode (.staAbsX adr) = [0x9D#8, loByte adr, hiByte adr] ∧
      Completes (.staAbsX adr) s (StoreEffect s.a s (.absoluteX adr))) ∧
    (encode (.staAbsY adr) = [0x99#8, loByte adr, hiByte adr] ∧
      Completes (.staAbsY adr) s (StoreEffect s.a s (.absoluteY adr))) ∧
    (encode (.staIndX b) = [0x81#8, b] ∧ Completes (.staIndX b) s (StoreEffect s.a s (.indirectX b))) ∧
    (encode (.staIndY b) = [0x91#8, b] ∧ Completes (.staIndY b) s (StoreEffect s.a s (.indirectY b)))

/-- R141: every STX form stores X at its effective address. The opcode bytes are D1, the low address byte first in
stxAbs is D4 (R141 lists no operand order), and that the store itself costs no cycle is D5 and D11; log entry 6.
Beyond that the modes' cycles rest on I9 (log entry 6). -/
def Obligations.StxCompletes : Prop :=
  ∀ (s : State) (b : Byte) (adr : Addr),
    (encode (.stxZp b) = [0x86#8, b] ∧ Completes (.stxZp b) s (StoreEffect s.x s (.zeroPage b))) ∧
    (encode (.stxZpY b) = [0x96#8, b] ∧ Completes (.stxZpY b) s (StoreEffect s.x s (.zeroPageY b))) ∧
    (encode (.stxAbs adr) = [0x8E#8, loByte adr, hiByte adr] ∧
      Completes (.stxAbs adr) s (StoreEffect s.x s (.absolute adr)))

/-- R150: NOP is the one byte 0xEA, adds one cycle to that of its fetch, and changes nothing else. -/
def Obligations.NopCompletes : Prop :=
  encode .nop = [0xEA#8] ∧ ∀ s : State, exec .nop s = .next { s with cyc := s.cyc + 1 }

/-! ### Encoding -/

/-- R60 to R62: decoding an encoded instruction gives it back, with every operand at every value, and leaves the
bytes after it. The encodings themselves rest on D1 to D4 (log entry 6). -/
def Obligations.DecodeOfEncode : Prop :=
  ∀ (i : Instr) (rest : List Byte), i.wellFormed = true ∧ decode (encode i ++ rest) = .ok (i, rest)

/-- R60 to R64: bytes that decode are the encoding of what they decode to: each word has one meaning. The encodings
themselves rest on D1 to D4 (log entry 6). -/
def Obligations.EncodeOfDecode : Prop :=
  ∀ (bs rest : List Byte) (i : Instr), decode bs = .ok (i, rest) → bs = encode i ++ rest

/-- R64 (D1, D2, D3, D4; log entry 6): each of the 37 rows decodes to its mnemonic and mode with the operand of R62.
-/
def Obligations.TableRowsDecode : Prop :=
  specTable.length = 37 ∧
  ∀ (row : SpecRow) (b1 b2 : Byte), row ∈ specTable →
    ∃ i rest, decode [row.1, b1, b2] = .ok (i, rest) ∧ i.mnemonic = row.2.1 ∧ i.mode = row.2.2 ∧
      i.operand.bytes ++ rest = [b1, b2]

/-- R65 (which bytes the table has is D1 and D2, log entry 6): an opcode byte not in R64's table decodes to
UnsupportedOpcode with the byte as its code, whatever follows it, and no other byte does; there are 219 of them. -/
def Obligations.UnsupportedOpcodeBytes : Prop :=
  (∀ (op : Byte) (rest : List Byte),
    decode (op :: rest) = .error (.unsupportedOpcode op) ↔ ∀ row ∈ specTable, row.1 ≠ op) ∧
  ((List.range 256).filter fun n => (lookup (BitVec.ofNat 8 n)).isNone).length = 219

/-- Words written out from R64's encodings, one of each mnemonic. The opcode bytes 0xA9 and 0xEA are the source's
(its §8); 0x69, 0xB6, 0xBC, 0x8D and 0x96 are D1, and the low byte first of the two absolute operands is D4 (log
entry 6). -/
def Obligations.WordsDecodeAsTheSpecSays : Prop :=
  decode [0xA9#8, 0x03#8] = .ok (.ldaImm 0x03#8, []) ∧
  decode [0x69#8, 0x01#8] = .ok (.adcImm 0x01#8, []) ∧
  decode [0xB6#8, 0xFF#8] = .ok (.ldxZpY 0xFF#8, []) ∧
  decode [0xBC#8, 0x80#8, 0x02#8] = .ok (.ldyAbsX 0x0280#16, []) ∧
  decode [0x8D#8, 0x34#8, 0x12#8] = .ok (.staAbs 0x1234#16, []) ∧
  decode [0x96#8, 0xF0#8] = .ok (.stxZpY 0xF0#8, []) ∧
  decode [0xEA#8, 0x00#8] = .ok (.nop, [0x00#8])

/-! ### The step -/

/-- R100, R102, R104: where the bytes at PC decode to an instruction, the step is `exec` of it in the state past its
bytes, drained (D12), one cycle for each byte. The wrap of PC is D14, the encodings D1 to D4 (log entry 6); the
result field is log entry 3; that a step needs bootstrap is D17 (log entry 8). -/
def Obligations.StepRunsTheDecodedInstruction : Prop :=
  ∀ (s : State) (i : Instr) (rest : List Byte), s.bootstrapped = true → i.wellFormed = true →
    decode s.bytesAtPc = .ok (i, rest) → step s = exec i (s.fetched i)

/-- R103, R160, R161, R167. cyc is D13, the wrap of PC D14, the bytes of the table D1 and D2 (log entry 6), the
record D22. That the step answers a next state with the error in it, and that the record keeps the first error, are
the model's choice (log entries 3 and 4); that a step needs bootstrap is D17 (log entry 8). -/
def Obligations.StepReportsUnsupportedOpcode : Prop :=
  ∀ s : State, s.bootstrapped = true → lookup (s.readByte s.pc) = none →
    step s = .next { s with
      pc := BitVec.ofNat 16 ((s.pc.toNat + 1) % 65536), cyc := 1,
      result := some (.error (.unsupportedOpcode (s.readByte s.pc))),
      faultRecord := match s.faultRecord with
        | some f => some f
        | none => some (.unsupportedOpcode (s.readByte s.pc)) }

/-- R186 (D17, log entry 8): the model refuses a step before bootstrap. -/
def Obligations.StepBeforeBootstrapIsRefused : Prop :=
  ∀ s : State, s.bootstrapped = false → step s = .refused .stepBeforeBootstrap

/-- R106: after bootstrap (D17, log entry 8) a step always ends, with Ok or with UnsupportedOpcode. That the error
is a next state, with the result in a field, is the model's choice (log entry 3). -/
def Obligations.StepAlwaysEnds : Prop :=
  ∀ s : State, s.bootstrapped = true →
    ∃ t, step s = .next t ∧
      (t.result = some .ok ∨ ∃ op, t.result = some (.error (.unsupportedOpcode op)))

/-- R108: the step's result is Ok or UnsupportedOpcode of the byte at PC, and with Ok exactly one instruction, the
one whose bytes stand at PC, has executed. That the error is a next state, with the result in a field, is the
model's choice (log entry 3); the wrap of PC in `fetched` is D14, the drain D12, the encodings D1 to D4 (log entry
6). -/
def Obligations.StepResult : Prop :=
  ∀ s t : State, step s = .next t →
    (t.result = some .ok ∧ ∃ i rest, decode s.bytesAtPc = .ok (i, rest) ∧ exec i (s.fetched i) = .next t) ∨
    (t.result = some (.error (.unsupportedOpcode (s.readByte s.pc))) ∧ lookup (s.readByte s.pc) = none)

/-- R104 (derived there): PC after a step is PC0 plus the instruction's length, or plus 1 after UnsupportedOpcode,
mod 65536 (D14; the table and its lengths are D1 to D3; log entry 6). That the error is a next state is log entry 3.
-/
def Obligations.StepAdvancesPc : Prop :=
  ∀ s t : State, step s = .next t →
    (∀ i rest, decode s.bytesAtPc = .ok (i, rest) →
      t.pc.toNat = (s.pc.toNat + (encode i).length) % 65536) ∧
    (lookup (s.readByte s.pc) = none → t.pc.toNat = (s.pc.toNat + 1) % 65536)

/-- R191 (derived there, from R94): the cost of every opcode, and 1 for an unsupported one. The costs rest on D5,
D7, D9, D11, D13, I9 and I10, the drain on D12, the encodings on D1 to D4 (log entry 6), INDY_PAGE_PENALTY on D8
(log entry 5); that the error is a next state is log entry 3. -/
def Obligations.StepCycleCosts : Prop :=
  ∀ s t : State, step s = .next t →
    (∀ i rest, decode s.bytesAtPc = .ok (i, rest) → t.cyc = cycleCost s i) ∧
    (lookup (s.readByte s.pc) = none → t.cyc = 1)

/-- R100 with R82 to R93 and R107: the machine's step is `specStep`, the spec's pseudocode for dispatch and resolver
written out again. The handlers and `raise` are shared, so this says nothing about them. The table is D1 and D2, the
resolver D3 to D9 and I9, the base cost D11, the drain D12, the wraps D14 (log entries 5, 6); that the error branch
answers a next state is the model's choice (log entry 3), and that a step needs bootstrap is D17 (log entry 8). -/
def Obligations.StepIsTheSpecsStep : Prop :=
  ∀ s : State, s.bootstrapped = true → step s = .next (specStep s)

/-- R56 (D26, log entry 6): a byte STA stores at PC is what the next fetch reads. -/
def Obligations.StoreIsSeenByTheNextFetch : Prop :=
  ∀ s : State, ∃ t, exec (.staAbs s.pc) s = .next t ∧ t.fetchByte.1 = s.a

/-! ### Rules of the whole machine -/

/-- R23, R26, R30: no step changes SP, the flags I, D, B, bit 5 of P (D19, log entry 7), the parameters (in State by
log entry 5) or the mark (D17, log entry 8). That the error is a next state is log entry 3. -/
def Obligations.StepKeepsUnusedState : Prop :=
  ∀ s t : State, step s = .next t →
    t.sp = s.sp ∧ t.flag .i = s.flag .i ∧ t.flag .d = s.flag .d ∧ t.flag .b = s.flag .b ∧
    t.p.getLsbD 5 = s.p.getLsbD 5 ∧ t.cfg = s.cfg ∧ t.bootstrapped = s.bootstrapped

/-- R20, R30: what each mnemonic may write: only LDA and ADC write A, only LDX writes X, only LDY writes Y, only
ADC writes C and V, only ADC and the loads write Z and N. -/
def Obligations.RegistersHaveTheirWriters : Prop :=
  ∀ (i : Instr) (s t : State), exec i s = .next t →
    (i.mnemonic ≠ .lda → i.mnemonic ≠ .adc → t.a = s.a) ∧
    (i.mnemonic ≠ .ldx → t.x = s.x) ∧ (i.mnemonic ≠ .ldy → t.y = s.y) ∧
    (i.mnemonic ≠ .adc → t.flag .c = s.flag .c ∧ t.flag .v = s.flag .v) ∧
    (i.mnemonic = .sta ∨ i.mnemonic = .stx ∨ i.mnemonic = .nop → t.p = s.p)

/-- R48, R49: a step that runs no store leaves every byte of memory, and one that runs a store leaves every byte but
that of its effective address. That address rests on D6 and D8, the encodings on D1 to D4 (log entries 5, 6); that
the error is a next state is log entry 3. -/
def Obligations.OnlyStoresWriteMemory : Prop :=
  ∀ s t : State, step s = .next t → ∀ adr : Addr, t.readByte adr ≠ s.readByte adr →
    ∃ i rest o, decode s.bytesAtPc = .ok (i, rest) ∧ (i.mnemonic = .sta ∨ i.mnemonic = .stx) ∧
      i.operand = .mem o ∧ adr = s.effAddr o

/-- R29 (D12, log entry 6): no step depends on what the accumulator held before it. -/
def Obligations.CyclesAreNotRead : Prop :=
  ∀ (s : State) (n : Nat), step { s with cyc := n } = step s

/-- R20, R23: nothing in scope reads or writes SP: another SP changes nothing but SP. That the error is a next state
is log entry 3. -/
def Obligations.StackPointerIsNotRead : Prop :=
  ∀ (s t : State) (v : Byte), step s = .next t → step { s with sp := v } = .next { t with sp := v }

/-- R30: no instruction reads a flag but ADC the carry: setting or clearing another flag before a step changes, in
the state it ends with, that flag at most. At D it rests on ADC being binary, D10 (log entry 6), and at I on D24,
that I has no effect (log entry 6); that the error is a next state is log entry 3. It speaks of the seven flags;
that bit 5 of P is kept too is StepKeepsUnusedState with FlagsAreIndependent. -/
def Obligations.OnlyCarryIsRead : Prop :=
  ∀ (s t : State) (f : Flag) (v : Bool), f ≠ .c → step s = .next t →
    ∃ q, step (s.putFlag f v) = .next { t with p := q } ∧ ∀ g, g ≠ f → getFlag q g = getFlag t.p g

/-- R163 (D22): a record once set is kept by every step, and a step sets an empty one exactly when it reports the
error. Keeping the first error is log entry 4; that the error is a next state, with the result in a field, is log
entry 3. -/
def Obligations.FaultRecordIsSticky : Prop :=
  ∀ s t : State, step s = .next t →
    (∀ f, s.faultRecord = some f → t.faultRecord = some f) ∧
    (s.Clean → (t.Clean ↔ t.result = some .ok) ∧ ∀ f, t.result = some (.error f) → t.faultRecord = some f)

/-- The invariant holds at reset (R32, R185); that SP and P keep their construction values through bootstrap is D15
(log entry 7), and the clause on memory rests on log entry 1. -/
def Obligations.ResetHasInvariant : Prop := State.reset.Inv

/-- Construction, load_program and bootstrap keep the invariant, for any parameters and canonical INIT_MEM (R32,
R183, R185). That SP and P hold their construction values is D15 (log entry 7), the canonical form log entry 1, that
bootstrap costs no cycle D18 (log entry 6). -/
def Obligations.HostOperationsKeepInvariant : Prop :=
  (∀ (cfg : Config) (initMem : Memory), initMem.wf = true → (State.construct cfg initMem).Inv) ∧
  (∀ (s t : State) (bytes : List Byte), s.Inv → s.loadProgram bytes = .next t → t.Inv) ∧
  (∀ s : State, s.Inv → s.bootstrap.Inv)

/-- Every step keeps the invariant (R23, R26, R30, R160, R163, R191): canonical memory (log entry 1), SP and the
unused flags at their construction values (D15 and, for bit 5, D19; log entry 7), at most five cycles (the costs are
D5, D7 to D9, D11, D13, I9, I10; log entries 5, 6), errors recorded (D22, log entries 3, 4) and only of unsupported
bytes (D1, D2; log entry 6). -/
def Obligations.StepKeepsInvariant : Prop :=
  ∀ s t : State, s.Inv → step s = .next t → t.Inv

/-- R189 (D25, log entry 9): `run()` stops at, and returns, the first error: from a clean state the error it returns
is the one the record keeps (D22, log entries 3, 4). -/
def Obligations.RunStopsAtTheFirstError : Prop :=
  ∀ (k : Nat) (s t : State) (f : Fault), s.Clean → run k s = .next (t, some f) →
    t.result = some (.error f) ∧ t.faultRecord = some f ∧ ∃ j < k, ∃ u, run j s = .next (u, none) ∧ u.Clean ∧ step u = .next t

/-- R187, R188 (D25, log entry 9): `run()` that ends without an error is that many calls of `step()`, and a clean
state stays clean (D22, log entries 3, 4). -/
def Obligations.RunWithoutErrorIsItsSteps : Prop :=
  ∀ (k : Nat) (s t : State), run k s = .next (t, none) →
    Sys2Proof.core.run k s = .next t ∧ (s.Clean → t.Clean)
end

