-- ==== Sys2Proof/Laws/Decode.lean ====
section
/-! SUPPORT. The table lookup, said once: a row found is in the table, and the instruction its shape makes has that
opcode byte and those operand bytes (R63, R64). -/

namespace Sys2Proof

theorem findRow_mem {op : Byte} {sh : Shape} {rows : List (Byte × Shape)} (h : findRow op rows = some sh) :
    (op, sh) ∈ rows := by
  induction rows with
  | nil => simp [findRow] at h
  | cons r rows ih =>
    obtain ⟨k, t⟩ := r
    simp only [findRow] at h
    split at h
    · next hk => cases h; simp [hk]
    · simp [ih h]

theorem findRow_eq_none {op : Byte} {rows : List (Byte × Shape)} : findRow op rows = none ↔ ∀ r ∈ rows, r.1 ≠ op := by
  induction rows with
  | nil => simp [findRow]
  | cons r rows ih =>
    obtain ⟨k, t⟩ := r
    by_cases hk : k = op <;> simp [findRow, hk, ih]

/-- What a row's shape makes: NOP, or an instruction with the row's opcode byte and the operand bytes of its
format. -/
inductive RowMakes (op : Byte) : Shape → Prop where
  | f1 (h : op = 0xEA#8) : RowMakes op (.f1 .nop)
  | f2 (mk : Byte → Instr) (h : ∀ b, (mk b).opcode = op ∧ (mk b).operand.bytes = [b]) : RowMakes op (.f2 mk)
  | f3 (mk : Addr → Instr) (h : ∀ a, (mk a).opcode = op ∧ (mk a).operand.bytes = [loByte a, hiByte a]) :
      RowMakes op (.f3 mk)

/-- Inversion of the lookup (R63). -/
theorem lookup_cases {op : Byte} {sh : Shape} (h : lookup op = some sh) : RowMakes op sh := by
  have h := findRow_mem h
  simp only [table, adcRows, ldaRows, ldxRows, ldyRows, staRows, stxRows, List.mem_append, List.mem_cons,
    List.not_mem_nil, or_false, Prod.mk.injEq] at h
  rcases h with ((((((h | h | h | h | h | h | h | h) | (h | h | h | h | h | h | h | h)) | (h | h | h | h | h)) |
    (h | h | h | h | h)) | (h | h | h | h | h | h | h)) | (h | h | h)) | h <;> obtain ⟨rfl, rfl⟩ := h
  all_goals
    first
    | exact .f1 rfl
    | exact .f2 _ fun _ => ⟨rfl, rfl⟩
    | exact .f3 _ fun _ => ⟨rfl, rfl⟩

end Sys2Proof
end

