-- ==== Sys2Proof/Laws/Flags.lean ====
section
/-! SUPPORT. The flag bank bit by bit: one lemma for a flag's mask, one for a set, one for a get (R25, R27). -/

namespace Sys2Proof.Machine

/-- The bit position of each flag (R25). -/
def Flag.position : Flag → Nat
  | .c => 0
  | .z => 1
  | .i => 2
  | .d => 3
  | .b => 4
  | .v => 6
  | .n => 7

theorem Flag.mask_eq (f : Flag) : f.mask = BitVec.twoPow 8 f.position := by cases f <;> rfl

theorem Flag.position_lt (f : Flag) : f.position < 8 := by cases f <;> decide

/-- A mask holds its flag's bit alone. -/
theorem Flag.mask_getLsbD (f : Flag) (k : Nat) : f.mask.getLsbD k = decide (k = f.position) := by
  have := f.position_lt
  rw [f.mask_eq, BitVec.getLsbD_twoPow]
  by_cases h : k = f.position
  · subst h; simp [this]
  · simp [h, Ne.symm h]

/-- `set` writes its flag's bit and no other (R27, R28). -/
theorem setFlag_getLsbD (p : Byte) (f : Flag) (v : Bool) (k : Nat) :
    (setFlag p f v).getLsbD k = if k = f.position then v else p.getLsbD k := by
  unfold setFlag
  cases v
  · simp only [Bool.false_eq_true, if_false, BitVec.getLsbD_and, BitVec.getLsbD_not, f.mask_getLsbD]
    by_cases hk : k < 8
    · by_cases h : k = f.position <;> simp [h, hk]
    · rw [BitVec.getLsbD_of_ge p k (by omega)]; simp
  · simp only [if_true, BitVec.getLsbD_or, f.mask_getLsbD]
    by_cases h : k = f.position <;> simp [h]

/-- `get` reads its flag's bit (R27). -/
theorem getFlag_eq (p : Byte) (f : Flag) : getFlag p f = p.getLsbD f.position := by
  have h : p &&& f.mask = if p.getLsbD f.position then f.mask else 0#8 := by
    apply BitVec.eq_of_getLsbD_eq
    intro k _
    by_cases hk : k = f.position
    · subst hk
      cases hp : p.getLsbD f.position <;> simp [f.mask_getLsbD, hp]
    · split <;> simp [f.mask_getLsbD, hk]
  have hm : f.mask ≠ 0#8 := by cases f <;> decide
  unfold getFlag
  rw [h]
  cases p.getLsbD f.position <;> simp [hm]

end Sys2Proof.Machine
end

