-- ==== Sys2Proof/Laws/Memory.lean ====
section
/-! SUPPORT. The laws of the memory operations: a read after a write, and that every operation keeps the canonical
form. The read laws need no canonical form. -/

namespace Sys2Proof.Machine

theorem Memory.find_drop (m : Memory) (a b : Nat) :
    Memory.find (Memory.drop m a) b = if b = a then Memory.unlisted else Memory.find m b := by
  induction m with
  | nil => simp [Memory.drop, Memory.find]
  | cons c m ih =>
    obtain ⟨k, v⟩ := c
    by_cases hk : k = a
    · subst hk
      simp only [Memory.drop, if_true, ih, Memory.find]
      by_cases hb : b = k
      · simp [hb]
      · simp [hb, Ne.symm hb]
    · simp only [Memory.drop, hk, if_false, Memory.find, ih]
      by_cases hb : k = b
      · subst hb; simp [hk]
      · simp [hb]

theorem Memory.find_place (m : Memory) (a b : Nat) (v : Byte)
    (hd : ∀ c ∈ m, c.1 ≠ a) :
    Memory.find (Memory.place m a v) b = if b = a then v else Memory.find m b := by
  induction m with
  | nil =>
    by_cases hb : b = a
    · simp [Memory.place, Memory.find, hb]
    · simp [Memory.place, Memory.find, hb, Ne.symm hb]
  | cons c m ih =>
    obtain ⟨k, w⟩ := c
    have hk : k ≠ a := hd (k, w) (by simp)
    have ih := ih (fun c hc => hd c (by simp [hc]))
    by_cases hlt : a < k
    · by_cases hb : b = a
      · simp [Memory.place, hlt, Memory.find, hb]
      · simp [Memory.place, hlt, Memory.find, hb, Ne.symm hb]
    · simp only [Memory.place, hlt, if_false, Memory.find, ih]
      by_cases hb : k = b
      · subst hb; simp [hk]
      · simp [hb]

theorem Memory.not_mem_drop (m : Memory) (a : Nat) : ∀ c ∈ Memory.drop m a, c.1 ≠ a := by
  induction m with
  | nil => simp [Memory.drop]
  | cons c m ih =>
    obtain ⟨k, v⟩ := c
    by_cases hk : k = a
    · simpa [Memory.drop, hk] using ih
    · intro c hc
      simp only [Memory.drop, hk, if_false, List.mem_cons] at hc
      obtain rfl | hc := hc
      · exact hk
      · exact ih c hc

/-- Everything a write does, in any memory: the byte written reads back, every other byte reads as before (R42). -/
theorem Memory.read_write (m : Memory) (a b : Addr) (v : Byte) :
    (m.write a v).read b = if b = a then v else m.read b := by
  have hab : b.toNat = a.toNat ↔ b = a := BitVec.toNat_inj
  unfold Memory.write Memory.read
  split
  · next hv => rw [Memory.find_drop]; simp [hab, hv]
  · rw [Memory.find_place _ _ _ _ (Memory.not_mem_drop _ _), Memory.find_drop]
    by_cases hb : b = a <;> simp [hab, hb]

theorem Memory.canonicalFrom_mono {lo lo' : Nat} {m : Memory} (hle : lo' ≤ lo)
    (h : Memory.canonicalFrom lo m = true) : Memory.canonicalFrom lo' m = true := by
  cases m with
  | nil => rfl
  | cons c m =>
    obtain ⟨k, v⟩ := c
    simp only [Memory.canonicalFrom, Bool.and_eq_true, decide_eq_true_eq] at h ⊢
    exact ⟨⟨⟨le_trans hle h.1.1.1, h.1.1.2⟩, h.1.2⟩, h.2⟩

theorem Memory.canonicalFrom_drop {lo a : Nat} {m : Memory} (h : Memory.canonicalFrom lo m = true) :
    Memory.canonicalFrom lo (Memory.drop m a) = true := by
  induction m generalizing lo with
  | nil => rfl
  | cons c m ih =>
    obtain ⟨k, v⟩ := c
    simp only [Memory.canonicalFrom, Bool.and_eq_true, decide_eq_true_eq] at h
    have htail := ih h.2
    by_cases hk : k = a
    · simp only [Memory.drop, hk, if_true]
      rw [hk] at htail h
      exact Memory.canonicalFrom_mono (le_trans h.1.1.1 (Nat.le_succ a)) htail
    · simp only [Memory.drop, hk, if_false, Memory.canonicalFrom, Bool.and_eq_true, decide_eq_true_eq]
      exact ⟨h.1, htail⟩

theorem Memory.canonicalFrom_place {lo a : Nat} {m : Memory} {v : Byte} (h : Memory.canonicalFrom lo m = true)
    (hd : ∀ c ∈ m, c.1 ≠ a) (hlo : lo ≤ a) (ha : a < 65536) (hv : v ≠ Memory.unlisted) :
    Memory.canonicalFrom lo (Memory.place m a v) = true := by
  induction m generalizing lo with
  | nil => simp [Memory.place, Memory.canonicalFrom, hlo, ha, hv]
  | cons c m ih =>
    obtain ⟨k, w⟩ := c
    have hk : k ≠ a := hd (k, w) (by simp)
    simp only [Memory.canonicalFrom, Bool.and_eq_true, decide_eq_true_eq] at h
    by_cases hlt : a < k
    · simp only [Memory.place, hlt, if_true, Memory.canonicalFrom, Bool.and_eq_true, decide_eq_true_eq]
      exact ⟨⟨⟨hlo, ha⟩, hv⟩, ⟨⟨hlt, h.1.1.2⟩, h.1.2⟩, h.2⟩
    · simp only [Memory.place, hlt, if_false, Memory.canonicalFrom, Bool.and_eq_true, decide_eq_true_eq]
      exact ⟨h.1, ih h.2 (fun c hc => hd c (by simp [hc])) (by omega)⟩

/-- A write keeps the canonical form. -/
theorem Memory.wf_write {m : Memory} (h : m.wf = true) (a : Addr) (v : Byte) : (m.write a v).wf = true := by
  unfold Memory.write
  split
  · exact Memory.canonicalFrom_drop h
  · next hv =>
    exact Memory.canonicalFrom_place (Memory.canonicalFrom_drop h) (Memory.not_mem_drop _ _)
      (Nat.zero_le _) a.isLt hv

/-- Writing bytes one after another keeps the canonical form. -/
theorem Memory.wf_writeBytes {m : Memory} (h : m.wf = true) (a : Addr) (bs : List Byte) :
    (m.writeBytes a bs).wf = true := by
  induction bs generalizing m a with
  | nil => exact h
  | cons b bs ih => exact ih (Memory.wf_write h a b) (a + 1)

/-- The memory of `State.reset`, with nothing listed, is canonical. -/
theorem Memory.wf_nil : Memory.wf [] = true := rfl

end Sys2Proof.Machine
end

