-- ==== Sys2Proof/Laws/State.lean ====
section
/-! SUPPORT. What each state update does to each field, by rfl, so that no later proof unfolds an update. -/

namespace Sys2Proof.Machine

variable (s : State)

@[simp] theorem State.writeByte_a (adr : Addr) (v : Byte) : (s.writeByte adr v).a = s.a := rfl
@[simp] theorem State.writeByte_x (adr : Addr) (v : Byte) : (s.writeByte adr v).x = s.x := rfl
@[simp] theorem State.writeByte_y (adr : Addr) (v : Byte) : (s.writeByte adr v).y = s.y := rfl
@[simp] theorem State.writeByte_sp (adr : Addr) (v : Byte) : (s.writeByte adr v).sp = s.sp := rfl
@[simp] theorem State.writeByte_pc (adr : Addr) (v : Byte) : (s.writeByte adr v).pc = s.pc := rfl
@[simp] theorem State.writeByte_p (adr : Addr) (v : Byte) : (s.writeByte adr v).p = s.p := rfl
@[simp] theorem State.writeByte_cyc (adr : Addr) (v : Byte) : (s.writeByte adr v).cyc = s.cyc := rfl
@[simp] theorem State.writeByte_mem (adr : Addr) (v : Byte) : (s.writeByte adr v).mem = s.mem.write adr v := rfl
@[simp] theorem State.writeByte_bootstrapped (adr : Addr) (v : Byte) : (s.writeByte adr v).bootstrapped = s.bootstrapped := rfl
@[simp] theorem State.writeByte_faultRecord (adr : Addr) (v : Byte) : (s.writeByte adr v).faultRecord = s.faultRecord := rfl
@[simp] theorem State.writeByte_result (adr : Addr) (v : Byte) : (s.writeByte adr v).result = s.result := rfl
@[simp] theorem State.writeByte_cfg (adr : Addr) (v : Byte) : (s.writeByte adr v).cfg = s.cfg := rfl

@[simp] theorem State.addCycles_a (n : Nat) : (s.addCycles n).a = s.a := rfl
@[simp] theorem State.addCycles_x (n : Nat) : (s.addCycles n).x = s.x := rfl
@[simp] theorem State.addCycles_y (n : Nat) : (s.addCycles n).y = s.y := rfl
@[simp] theorem State.addCycles_sp (n : Nat) : (s.addCycles n).sp = s.sp := rfl
@[simp] theorem State.addCycles_pc (n : Nat) : (s.addCycles n).pc = s.pc := rfl
@[simp] theorem State.addCycles_p (n : Nat) : (s.addCycles n).p = s.p := rfl
@[simp] theorem State.addCycles_cyc (n : Nat) : (s.addCycles n).cyc = s.cyc + n := rfl
@[simp] theorem State.addCycles_mem (n : Nat) : (s.addCycles n).mem = s.mem := rfl
@[simp] theorem State.addCycles_bootstrapped (n : Nat) : (s.addCycles n).bootstrapped = s.bootstrapped := rfl
@[simp] theorem State.addCycles_faultRecord (n : Nat) : (s.addCycles n).faultRecord = s.faultRecord := rfl
@[simp] theorem State.addCycles_result (n : Nat) : (s.addCycles n).result = s.result := rfl
@[simp] theorem State.addCycles_cfg (n : Nat) : (s.addCycles n).cfg = s.cfg := rfl

@[simp] theorem State.afterFetch_a : s.afterFetch.a = s.a := rfl
@[simp] theorem State.afterFetch_x : s.afterFetch.x = s.x := rfl
@[simp] theorem State.afterFetch_y : s.afterFetch.y = s.y := rfl
@[simp] theorem State.afterFetch_sp : s.afterFetch.sp = s.sp := rfl
@[simp] theorem State.afterFetch_pc : s.afterFetch.pc = s.pc + 1 := rfl
@[simp] theorem State.afterFetch_p : s.afterFetch.p = s.p := rfl
@[simp] theorem State.afterFetch_cyc : s.afterFetch.cyc = s.cyc + 1 := rfl
@[simp] theorem State.afterFetch_mem : s.afterFetch.mem = s.mem := rfl
@[simp] theorem State.afterFetch_bootstrapped : s.afterFetch.bootstrapped = s.bootstrapped := rfl
@[simp] theorem State.afterFetch_faultRecord : s.afterFetch.faultRecord = s.faultRecord := rfl
@[simp] theorem State.afterFetch_result : s.afterFetch.result = s.result := rfl
@[simp] theorem State.afterFetch_cfg : s.afterFetch.cfg = s.cfg := rfl

@[simp] theorem State.startStep_a : s.startStep.a = s.a := rfl
@[simp] theorem State.startStep_x : s.startStep.x = s.x := rfl
@[simp] theorem State.startStep_y : s.startStep.y = s.y := rfl
@[simp] theorem State.startStep_sp : s.startStep.sp = s.sp := rfl
@[simp] theorem State.startStep_pc : s.startStep.pc = s.pc := rfl
@[simp] theorem State.startStep_p : s.startStep.p = s.p := rfl
@[simp] theorem State.startStep_cyc : s.startStep.cyc = 0 := rfl
@[simp] theorem State.startStep_mem : s.startStep.mem = s.mem := rfl
@[simp] theorem State.startStep_bootstrapped : s.startStep.bootstrapped = s.bootstrapped := rfl
@[simp] theorem State.startStep_faultRecord : s.startStep.faultRecord = s.faultRecord := rfl
@[simp] theorem State.startStep_result : s.startStep.result = some .ok := rfl
@[simp] theorem State.startStep_cfg : s.startStep.cfg = s.cfg := rfl

@[simp] theorem State.raise_a (f : Fault) : (s.raise f).a = s.a := rfl
@[simp] theorem State.raise_x (f : Fault) : (s.raise f).x = s.x := rfl
@[simp] theorem State.raise_y (f : Fault) : (s.raise f).y = s.y := rfl
@[simp] theorem State.raise_sp (f : Fault) : (s.raise f).sp = s.sp := rfl
@[simp] theorem State.raise_pc (f : Fault) : (s.raise f).pc = s.pc := rfl
@[simp] theorem State.raise_p (f : Fault) : (s.raise f).p = s.p := rfl
@[simp] theorem State.raise_cyc (f : Fault) : (s.raise f).cyc = s.cyc := rfl
@[simp] theorem State.raise_mem (f : Fault) : (s.raise f).mem = s.mem := rfl
@[simp] theorem State.raise_bootstrapped (f : Fault) : (s.raise f).bootstrapped = s.bootstrapped := rfl
@[simp] theorem State.raise_faultRecord (f : Fault) : (s.raise f).faultRecord = s.faultRecord.or (some f) := rfl
@[simp] theorem State.raise_result (f : Fault) : (s.raise f).result = some (.error f) := rfl
@[simp] theorem State.raise_cfg (f : Fault) : (s.raise f).cfg = s.cfg := rfl

@[simp] theorem State.putFlag_a (f : Flag) (v : Bool) : (s.putFlag f v).a = s.a := rfl
@[simp] theorem State.putFlag_x (f : Flag) (v : Bool) : (s.putFlag f v).x = s.x := rfl
@[simp] theorem State.putFlag_y (f : Flag) (v : Bool) : (s.putFlag f v).y = s.y := rfl
@[simp] theorem State.putFlag_sp (f : Flag) (v : Bool) : (s.putFlag f v).sp = s.sp := rfl
@[simp] theorem State.putFlag_pc (f : Flag) (v : Bool) : (s.putFlag f v).pc = s.pc := rfl
@[simp] theorem State.putFlag_p (f : Flag) (v : Bool) : (s.putFlag f v).p = setFlag s.p f v := rfl
@[simp] theorem State.putFlag_cyc (f : Flag) (v : Bool) : (s.putFlag f v).cyc = s.cyc := rfl
@[simp] theorem State.putFlag_mem (f : Flag) (v : Bool) : (s.putFlag f v).mem = s.mem := rfl
@[simp] theorem State.putFlag_bootstrapped (f : Flag) (v : Bool) : (s.putFlag f v).bootstrapped = s.bootstrapped := rfl
@[simp] theorem State.putFlag_faultRecord (f : Flag) (v : Bool) : (s.putFlag f v).faultRecord = s.faultRecord := rfl
@[simp] theorem State.putFlag_result (f : Flag) (v : Bool) : (s.putFlag f v).result = s.result := rfl
@[simp] theorem State.putFlag_cfg (f : Flag) (v : Bool) : (s.putFlag f v).cfg = s.cfg := rfl

@[simp] theorem State.setZN_a (v : Byte) : (s.setZN v).a = s.a := rfl
@[simp] theorem State.setZN_x (v : Byte) : (s.setZN v).x = s.x := rfl
@[simp] theorem State.setZN_y (v : Byte) : (s.setZN v).y = s.y := rfl
@[simp] theorem State.setZN_sp (v : Byte) : (s.setZN v).sp = s.sp := rfl
@[simp] theorem State.setZN_pc (v : Byte) : (s.setZN v).pc = s.pc := rfl
@[simp] theorem State.setZN_p (v : Byte) : (s.setZN v).p = setFlag (setFlag s.p .z (v == 0#8)) .n (v &&& 0x80#8 != 0#8) := rfl
@[simp] theorem State.setZN_cyc (v : Byte) : (s.setZN v).cyc = s.cyc := rfl
@[simp] theorem State.setZN_mem (v : Byte) : (s.setZN v).mem = s.mem := rfl
@[simp] theorem State.setZN_bootstrapped (v : Byte) : (s.setZN v).bootstrapped = s.bootstrapped := rfl
@[simp] theorem State.setZN_faultRecord (v : Byte) : (s.setZN v).faultRecord = s.faultRecord := rfl
@[simp] theorem State.setZN_result (v : Byte) : (s.setZN v).result = s.result := rfl
@[simp] theorem State.setZN_cfg (v : Byte) : (s.setZN v).cfg = s.cfg := rfl

@[simp] theorem State.adc_a (m : Byte) : (s.adc m).a = adcResult s.a m (s.flag .c) := rfl
@[simp] theorem State.adc_x (m : Byte) : (s.adc m).x = s.x := rfl
@[simp] theorem State.adc_y (m : Byte) : (s.adc m).y = s.y := rfl
@[simp] theorem State.adc_sp (m : Byte) : (s.adc m).sp = s.sp := rfl
@[simp] theorem State.adc_pc (m : Byte) : (s.adc m).pc = s.pc := rfl
@[simp] theorem State.adc_cyc (m : Byte) : (s.adc m).cyc = s.cyc := rfl
@[simp] theorem State.adc_mem (m : Byte) : (s.adc m).mem = s.mem := rfl
@[simp] theorem State.adc_bootstrapped (m : Byte) : (s.adc m).bootstrapped = s.bootstrapped := rfl
@[simp] theorem State.adc_faultRecord (m : Byte) : (s.adc m).faultRecord = s.faultRecord := rfl
@[simp] theorem State.adc_result (m : Byte) : (s.adc m).result = s.result := rfl
@[simp] theorem State.adc_cfg (m : Byte) : (s.adc m).cfg = s.cfg := rfl

@[simp] theorem State.lda_a (m : Byte) : (s.lda m).a = m := rfl
@[simp] theorem State.lda_x (m : Byte) : (s.lda m).x = s.x := rfl
@[simp] theorem State.lda_y (m : Byte) : (s.lda m).y = s.y := rfl
@[simp] theorem State.lda_sp (m : Byte) : (s.lda m).sp = s.sp := rfl
@[simp] theorem State.lda_pc (m : Byte) : (s.lda m).pc = s.pc := rfl
@[simp] theorem State.lda_p (m : Byte) : (s.lda m).p = (s.setZN m).p := rfl
@[simp] theorem State.lda_cyc (m : Byte) : (s.lda m).cyc = s.cyc := rfl
@[simp] theorem State.lda_mem (m : Byte) : (s.lda m).mem = s.mem := rfl
@[simp] theorem State.lda_bootstrapped (m : Byte) : (s.lda m).bootstrapped = s.bootstrapped := rfl
@[simp] theorem State.lda_faultRecord (m : Byte) : (s.lda m).faultRecord = s.faultRecord := rfl
@[simp] theorem State.lda_result (m : Byte) : (s.lda m).result = s.result := rfl
@[simp] theorem State.lda_cfg (m : Byte) : (s.lda m).cfg = s.cfg := rfl

@[simp] theorem State.ldx_a (m : Byte) : (s.ldx m).a = s.a := rfl
@[simp] theorem State.ldx_x (m : Byte) : (s.ldx m).x = m := rfl
@[simp] theorem State.ldx_y (m : Byte) : (s.ldx m).y = s.y := rfl
@[simp] theorem State.ldx_sp (m : Byte) : (s.ldx m).sp = s.sp := rfl
@[simp] theorem State.ldx_pc (m : Byte) : (s.ldx m).pc = s.pc := rfl
@[simp] theorem State.ldx_p (m : Byte) : (s.ldx m).p = (s.setZN m).p := rfl
@[simp] theorem State.ldx_cyc (m : Byte) : (s.ldx m).cyc = s.cyc := rfl
@[simp] theorem State.ldx_mem (m : Byte) : (s.ldx m).mem = s.mem := rfl
@[simp] theorem State.ldx_bootstrapped (m : Byte) : (s.ldx m).bootstrapped = s.bootstrapped := rfl
@[simp] theorem State.ldx_faultRecord (m : Byte) : (s.ldx m).faultRecord = s.faultRecord := rfl
@[simp] theorem State.ldx_result (m : Byte) : (s.ldx m).result = s.result := rfl
@[simp] theorem State.ldx_cfg (m : Byte) : (s.ldx m).cfg = s.cfg := rfl

@[simp] theorem State.ldy_a (m : Byte) : (s.ldy m).a = s.a := rfl
@[simp] theorem State.ldy_x (m : Byte) : (s.ldy m).x = s.x := rfl
@[simp] theorem State.ldy_y (m : Byte) : (s.ldy m).y = m := rfl
@[simp] theorem State.ldy_sp (m : Byte) : (s.ldy m).sp = s.sp := rfl
@[simp] theorem State.ldy_pc (m : Byte) : (s.ldy m).pc = s.pc := rfl
@[simp] theorem State.ldy_p (m : Byte) : (s.ldy m).p = (s.setZN m).p := rfl
@[simp] theorem State.ldy_cyc (m : Byte) : (s.ldy m).cyc = s.cyc := rfl
@[simp] theorem State.ldy_mem (m : Byte) : (s.ldy m).mem = s.mem := rfl
@[simp] theorem State.ldy_bootstrapped (m : Byte) : (s.ldy m).bootstrapped = s.bootstrapped := rfl
@[simp] theorem State.ldy_faultRecord (m : Byte) : (s.ldy m).faultRecord = s.faultRecord := rfl
@[simp] theorem State.ldy_result (m : Byte) : (s.ldy m).result = s.result := rfl
@[simp] theorem State.ldy_cfg (m : Byte) : (s.ldy m).cfg = s.cfg := rfl

@[simp] theorem State.bootstrap_a : s.bootstrap.a = s.a := rfl
@[simp] theorem State.bootstrap_x : s.bootstrap.x = s.x := rfl
@[simp] theorem State.bootstrap_y : s.bootstrap.y = s.y := rfl
@[simp] theorem State.bootstrap_sp : s.bootstrap.sp = s.sp := rfl
@[simp] theorem State.bootstrap_pc : s.bootstrap.pc = s.mem.read16 resetVector := rfl
@[simp] theorem State.bootstrap_p : s.bootstrap.p = s.p := rfl
@[simp] theorem State.bootstrap_cyc : s.bootstrap.cyc = s.cyc := rfl
@[simp] theorem State.bootstrap_mem : s.bootstrap.mem = s.mem := rfl
@[simp] theorem State.bootstrap_bootstrapped : s.bootstrap.bootstrapped = true := rfl
@[simp] theorem State.bootstrap_faultRecord : s.bootstrap.faultRecord = s.faultRecord := rfl
@[simp] theorem State.bootstrap_result : s.bootstrap.result = s.result := rfl
@[simp] theorem State.bootstrap_cfg : s.bootstrap.cfg = s.cfg := rfl

/-- ADC's P (R120): C, V, then Z and N of the result. -/
theorem State.adc_p (m : Byte) :
    (s.adc m).p = setFlag (setFlag (setFlag (setFlag s.p .c (adcCarry s.a m (s.flag .c)))
      .v (adcOverflow s.a m (adcResult s.a m (s.flag .c))))
      .z (adcResult s.a m (s.flag .c) == 0#8)) .n (adcResult s.a m (s.flag .c) &&& 0x80#8 != 0#8) := rfl

/-- `State.reset` is construction with the default parameters and nothing listed, then bootstrap (R181, R185). -/
theorem State.reset_eq : State.reset = (State.construct Config.specDefault []).bootstrap := rfl

end Sys2Proof.Machine
end

