-- ==== Sys2Proof/Laws/Step.lean ====
section
/-! SUPPORT. What the fetch, the handlers and a step can do, said once: the lemmas later proofs cite instead of
unfolding them. -/

namespace Sys2Proof.Machine

/-! The operand fetches (R80): the bytes at PC and after it, PC and the accumulator past them, nothing else. -/

theorem State.fetchBytes_zero (s : State) : s.fetchBytes 0 = ([], s) := rfl

theorem State.fetchBytes_one (s : State) : s.fetchBytes 1 = ([s.readByte s.pc], s.afterFetch) := rfl

theorem State.fetchBytes_two (s : State) :
    s.fetchBytes 2 = ([s.readByte s.pc, s.readByte (s.pc + 1)], s.afterFetch.afterFetch) := rfl

/-- What the instruction fetch does when the opcode byte has no entry: that one byte is fetched (R66, R103). -/
theorem State.fetchInstr_unsupported {s : State} (h : lookup (s.readByte s.pc) = none) :
    s.fetchInstr = (.error (.unsupportedOpcode (s.readByte s.pc)), s.afterFetch) := by
  have hcount : operandCount (s.readByte s.pc) = 0 := by simp [operandCount, h]
  simp only [State.fetchInstr, State.fetchByte, hcount, State.fetchBytes, decode, h]

/-- What it does when the byte has an entry: the decoder reads the fetched bytes (R100). -/
theorem State.fetchInstr_supported {s : State} {sh : Shape} (h : lookup (s.readByte s.pc) = some sh) :
    s.fetchInstr =
      match sh.build (s.afterFetch.fetchBytes sh.operandBytes).1 with
      | .ok (i, _) => (.ok i, (s.afterFetch.fetchBytes sh.operandBytes).2)
      | .error _ => (.error (.unsupportedOpcode (s.readByte s.pc)), (s.afterFetch.fetchBytes sh.operandBytes).2) := by
  have hcount : operandCount (s.readByte s.pc) = sh.operandBytes := by simp [operandCount, h]
  simp only [State.fetchInstr, State.fetchByte, hcount, decode, h] <;> rfl

/-- No mode costs more than three cycles beyond its fetches (R84 to R91). -/
theorem State.extraCycles_le (s : State) (cls : AccessClass) (o : MemOperand) : s.extraCycles cls o ≤ 3 := by
  cases o <;> simp only [State.extraCycles, absIndexedCycles] <;> (try cases cls) <;> simp <;> split <;> omega

/-- The states a handler can leave: a load or ADC of some byte after its mode's cycles, a byte stored after them,
or NOP's cycle. -/
inductive HandlerResult (s : State) : State → Prop where
  | adc (n : Nat) (m : Byte) (hn : n ≤ 3) : HandlerResult s ((s.addCycles n).adc m)
  | lda (n : Nat) (m : Byte) (hn : n ≤ 3) : HandlerResult s ((s.addCycles n).lda m)
  | ldx (n : Nat) (m : Byte) (hn : n ≤ 3) : HandlerResult s ((s.addCycles n).ldx m)
  | ldy (n : Nat) (m : Byte) (hn : n ≤ 3) : HandlerResult s ((s.addCycles n).ldy m)
  | store (n : Nat) (a : Addr) (v : Byte) (hn : n ≤ 3) : HandlerResult s ((s.addCycles n).writeByte a v)
  | nop : HandlerResult s (s.addCycles 1)

/-- Inversion of `exec`: every next state it answers is a handler's. -/
theorem exec_cases {i : Instr} {s t : State} (h : exec i s = .next t) : HandlerResult s t := by
  have le := s.extraCycles_le
  cases i <;> cases h
  case nop => exact .nop
  case adcImm v => exact .adc 0 v (by decide)
  case ldaImm v => exact .lda 0 v (by decide)
  case ldxImm v => exact .ldx 0 v (by decide)
  case ldyImm v => exact .ldy 0 v (by decide)
  all_goals
    first
    | exact .adc _ _ (le _ _)
    | exact .lda _ _ (le _ _)
    | exact .ldx _ _ (le _ _)
    | exact .ldy _ _ (le _ _)
    | exact .store _ _ _ (le _ _)

/-- Inversion of `step`: a next state is a fetched instruction's, or the state an error is raised in. -/
theorem step_cases {s t : State} (h : step s = .next t) :
    s.bootstrapped = true ∧
      ((∃ i u, s.startStep.fetchInstr = (.ok i, u) ∧ exec i u = .next t) ∨
        (∃ f u, s.startStep.fetchInstr = (.error f, u) ∧ t = u.raise f)) := by
  unfold step at h
  split at h
  · next hb =>
    refine ⟨hb, ?_⟩
    split at h
    · next i u hf => exact .inl ⟨i, u, hf, h⟩
    · next f u hf => exact .inr ⟨f, u, hf, by cases h; rfl⟩
  · cases h

end Sys2Proof.Machine
end

