-- ==== Sys2Proof/Laws/Words.lean ====
section
/-! SUPPORT. What the byte-order helpers compute, as numbers (R9, R44). -/

namespace Sys2Proof

theorem zext16_toNat (b : Byte) : (zext16 b).toNat = b.toNat := by
  have := b.isLt
  simp [zext16]
  omega

/-- Composition by OR is the number with the two bytes as its digits (R44). -/
theorem compose16_toNat (hi lo : Byte) : (compose16 hi lo).toNat = 256 * hi.toNat + lo.toNat := by
  have hhi := hi.isLt
  have hlo := lo.isLt
  simp only [compose16, zext16, BitVec.toNat_or, BitVec.toNat_shiftLeft, BitVec.toNat_setWidth]
  rw [Nat.mod_eq_of_lt (a := hi.toNat) (by omega), Nat.mod_eq_of_lt (a := lo.toNat) (by omega), Nat.shiftLeft_eq,
    Nat.mod_eq_of_lt (by omega), Nat.mul_comm]
  exact (Nat.two_pow_add_eq_or_of_lt (i := 8) hlo hi.toNat).symm

theorem loByte_toNat (a : Addr) : (loByte a).toNat = a.toNat % 256 := by
  simp [loByte, BitVec.extractLsb'_toNat]

theorem hiByte_toNat (a : Addr) : (hiByte a).toNat = a.toNat / 256 := by
  have := a.isLt
  simp only [hiByte, BitVec.extractLsb'_toNat, Nat.shiftRight_eq_div_pow]
  omega

theorem loByte_compose16 (hi lo : Byte) : loByte (compose16 hi lo) = lo := by
  have := lo.isLt
  apply BitVec.eq_of_toNat_eq
  rw [loByte_toNat, compose16_toNat]
  omega

theorem hiByte_compose16 (hi lo : Byte) : hiByte (compose16 hi lo) = hi := by
  have := lo.isLt
  apply BitVec.eq_of_toNat_eq
  rw [hiByte_toNat, compose16_toNat]
  omega

theorem compose16_hiByte_loByte (a : Addr) : compose16 (hiByte a) (loByte a) = a := by
  apply BitVec.eq_of_toNat_eq
  rw [compose16_toNat, hiByte_toNat, loByte_toNat]
  omega

end Sys2Proof
end

