-- ==== Sys2Proof/Tests/Slice0.lean ====
section
/-! SUPPORT. Tests of the model: what the well-formedness and canonical-form checks refuse, one word of each
instruction, one or two steps of each instruction with the results of spec/95_test_vectors.md, and for each
statement with hypotheses a witness that meets them. -/

namespace Sys2Proof.Tests

open Sys2Proof.Machine

/-! ### What the checks refuse -/

/-- R93: no store-class instruction has Immediate. -/
theorem test_sta_immediate_refused : Mnemonic.takes .sta (.immediate 0x05#8) = false := by decide
theorem test_stx_immediate_refused : Mnemonic.takes .stx (.immediate 0x05#8) = false := by decide
theorem test_lda_implied_refused : Mnemonic.takes .lda .implied = false := by decide
theorem test_nop_immediate_refused : Mnemonic.takes .nop (.immediate 0x05#8) = false := by decide
theorem test_adc_zeroPageY_refused : Mnemonic.takes .adc (.mem (.zeroPageY 0x10#8)) = false := by decide
theorem test_lda_zeroPageY_refused : Mnemonic.takes .lda (.mem (.zeroPageY 0x10#8)) = false := by decide
theorem test_ldx_zeroPageX_refused : Mnemonic.takes .ldx (.mem (.zeroPageX 0x10#8)) = false := by decide
theorem test_ldx_absoluteX_refused : Mnemonic.takes .ldx (.mem (.absoluteX 0x1234#16)) = false := by decide
theorem test_ldy_indirectY_refused : Mnemonic.takes .ldy (.mem (.indirectY 0x10#8)) = false := by decide
theorem test_ldy_zeroPageY_refused : Mnemonic.takes .ldy (.mem (.zeroPageY 0x10#8)) = false := by decide
theorem test_stx_absoluteX_refused : Mnemonic.takes .stx (.mem (.absoluteX 0x1234#16)) = false := by decide
theorem test_stx_indirectX_refused : Mnemonic.takes .stx (.mem (.indirectX 0x10#8)) = false := by decide

/-- The canonical form refuses cells out of order, a repeated address, an address past the space, and a cell
that holds what an unlisted address reads as. -/
theorem test_memory_unsorted_refused : Memory.wf [(2, 0x01#8), (1, 0x01#8)] = false := by decide
theorem test_memory_repeat_refused : Memory.wf [(1, 0x01#8), (1, 0x02#8)] = false := by decide
theorem test_memory_beyond_refused : Memory.wf [(65536, 0x01#8)] = false := by decide
theorem test_memory_unlisted_refused : Memory.wf [(1, 0x00#8)] = false := by decide
theorem test_memory_last_address_accepted : Memory.wf [(0, 0x01#8), (65535, 0x02#8)] = true := by decide

/-! ### One word of each instruction, from R64's encodings -/

theorem test_decode_adcImm : decodeTableWord 16 0x0169 = some (.adcImm 0x01#8) := by decide
theorem test_decode_adcZp : decodeTableWord 16 0x1065 = some (.adcZp 0x10#8) := by decide
theorem test_decode_adcZpX : decodeTableWord 16 0xFF75 = some (.adcZpX 0xFF#8) := by decide
theorem test_decode_adcAbs : decodeTableWord 24 0x20006D = some (.adcAbs 0x2000#16) := by decide
theorem test_decode_adcAbsX : decodeTableWord 24 0x20F07D = some (.adcAbsX 0x20F0#16) := by decide
theorem test_decode_adcAbsY : decodeTableWord 24 0x12F079 = some (.adcAbsY 0x12F0#16) := by decide
theorem test_decode_adcIndX : decodeTableWord 16 0x0161 = some (.adcIndX 0x01#8) := by decide
theorem test_decode_adcIndY : decodeTableWord 16 0x4071 = some (.adcIndY 0x40#8) := by decide
theorem test_decode_ldaImm : decodeTableWord 16 0x80A9 = some (.ldaImm 0x80#8) := by decide
theorem test_decode_ldaZp : decodeTableWord 16 0x10A5 = some (.ldaZp 0x10#8) := by decide
theorem test_decode_ldaZpX : decodeTableWord 16 0xF0B5 = some (.ldaZpX 0xF0#8) := by decide
theorem test_decode_ldaAbs : decodeTableWord 24 0x1234AD = some (.ldaAbs 0x1234#16) := by decide
theorem test_decode_ldaAbsX : decodeTableWord 24 0xFFFEBD = some (.ldaAbsX 0xFFFE#16) := by decide
theorem test_decode_ldaAbsY : decodeTableWord 24 0x12FFB9 = some (.ldaAbsY 0x12FF#16) := by decide
theorem test_decode_ldaIndX : decodeTableWord 16 0x20A1 = some (.ldaIndX 0x20#8) := by decide
theorem test_decode_ldaIndY : decodeTableWord 16 0x40B1 = some (.ldaIndY 0x40#8) := by decide
theorem test_decode_ldxImm : decodeTableWord 16 0x03A2 = some (.ldxImm 0x03#8) := by decide
theorem test_decode_ldxZp : decodeTableWord 16 0x10A6 = some (.ldxZp 0x10#8) := by decide
theorem test_decode_ldxZpY : decodeTableWord 16 0xFFB6 = some (.ldxZpY 0xFF#8) := by decide
theorem test_decode_ldxAbs : decodeTableWord 24 0x1234AE = some (.ldxAbs 0x1234#16) := by decide
theorem test_decode_ldxAbsY : decodeTableWord 24 0x0280BE = some (.ldxAbsY 0x0280#16) := by decide
theorem test_decode_ldyImm : decodeTableWord 16 0xFFA0 = some (.ldyImm 0xFF#8) := by decide
theorem test_decode_ldyZp : decodeTableWord 16 0x10A4 = some (.ldyZp 0x10#8) := by decide
theorem test_decode_ldyZpX : decodeTableWord 16 0xF0B4 = some (.ldyZpX 0xF0#8) := by decide
theorem test_decode_ldyAbs : decodeTableWord 24 0x1234AC = some (.ldyAbs 0x1234#16) := by decide
theorem test_decode_ldyAbsX : decodeTableWord 24 0x0280BC = some (.ldyAbsX 0x0280#16) := by decide
theorem test_decode_staZp : decodeTableWord 16 0x2485 = some (.staZp 0x24#8) := by decide
theorem test_decode_staZpX : decodeTableWord 16 0x4295 = some (.staZpX 0x42#8) := by decide
theorem test_decode_staAbs : decodeTableWord 24 0x12348D = some (.staAbs 0x1234#16) := by decide
theorem test_decode_staAbsX : decodeTableWord 24 0x12009D = some (.staAbsX 0x1200#16) := by decide
theorem test_decode_staAbsY : decodeTableWord 24 0x020199 = some (.staAbsY 0x0201#16) := by decide
theorem test_decode_staIndX : decodeTableWord 16 0x2081 = some (.staIndX 0x20#8) := by decide
theorem test_decode_staIndY : decodeTableWord 16 0x4091 = some (.staIndY 0x40#8) := by decide
theorem test_decode_stxZp : decodeTableWord 16 0x3086 = some (.stxZp 0x30#8) := by decide
theorem test_decode_stxZpY : decodeTableWord 16 0xFE96 = some (.stxZpY 0xFE#8) := by decide
theorem test_decode_stxAbs : decodeTableWord 24 0x40008E = some (.stxAbs 0x4000#16) := by decide
theorem test_decode_nop : decodeTableWord 8 0xEA = some .nop := by decide

/-- The bits above `nbits` are 0: the operand of a bare opcode byte is 0. -/
theorem test_decode_bare_opcode : decodeTableWord 8 0x12346D = some (.adcAbs 0x0000#16) := by decide

/-- R65: the bytes of vector section V8 have no entry. -/
theorem test_decode_unsupported :
    decodeTableWord 24 0x000000 = none ∧ decodeTableWord 24 0x000002 = none ∧ decodeTableWord 24 0x000040 = none ∧
    decodeTableWord 24 0x000084 = none ∧ decodeTableWord 24 0x0000FF = none := by decide

/-- R64: the legacy name swap of conflict C4 is not followed: 0x61 is (Indirect,X), 0x71 (Indirect),Y. -/
theorem test_indirect_names : Instr.mode (.adcIndX 0x01#8) = .indirectX ∧ Instr.mode (.adcIndY 0x01#8) = .indirectY := by
  decide

/-! ### Steps -/

/-- A state after bootstrap at PC = 0x0200 with the bytes of one instruction there, over the cells given. -/
def at0200 (bytes : List Byte) (mem : Memory) : State :=
  { State.construct Config.specDefault (mem.writeBytes 0x0200#16 bytes) with pc := 0x0200#16, bootstrapped := true }

/-- What a step's next state shows. -/
def after (s : State) (α : Type) (f : State → α) : Option α :=
  match step s with
  | .next t => some (f t)
  | _ => none

/-- A register, P, PC and the cycles. -/
def seen (r : State → Byte) (t : State) : Byte × Byte × Addr × Nat := (r t, t.p, t.pc, t.cyc)

/-! ADC: sections V4 of the vectors, and hand calculation from R120 where it has no row. -/

theorem test_adcImm_overflow :
    after { at0200 [0x69#8, 0x80#8] [] with a := 0x80#8 } _
      (seen State.a) = some (0x00#8, 0x43#8, 0x0202#16, 2) := by decide
theorem test_adcImm_decimal :
    after { at0200 [0x69#8, 0x01#8] [] with a := 0x99#8, p := 0x08#8 } _
      (seen State.a) = some (0x9A#8, 0x88#8, 0x0202#16, 2) := by decide
theorem test_adcZp :
    after { at0200 [0x65#8, 0x10#8] [(0x0010, 0x0F#8)] with a := 0x70#8, p := 0x01#8 } _
      (seen State.a) = some (0x80#8, 0xC0#8, 0x0202#16, 3) := by decide
theorem test_adcZpX_wraps :
    after { at0200 [0x75#8, 0xFF#8] [(0x0000, 0x20#8)] with a := 0x10#8, x := 0x01#8, p := 0x01#8 } _
      (seen State.a) = some (0x31#8, 0x00#8, 0x0202#16, 4) := by decide
theorem test_adcAbs :
    after { at0200 [0x6D#8, 0x00#8, 0x20#8] [(0x2000, 0x01#8)] with a := 0xFF#8 } _
      (seen State.a) = some (0x00#8, 0x03#8, 0x0203#16, 3) := by decide
theorem test_adcAbsX_crosses :
    after { at0200 [0x7D#8, 0xF0#8, 0x20#8] [] with x := 0x10#8, p := 0x01#8 } _
      (seen State.a) = some (0x01#8, 0x00#8, 0x0203#16, 4) := by decide
theorem test_adcAbsY_crosses :
    after { at0200 [0x79#8, 0xF0#8, 0x12#8] [(0x1310, 0xFF#8)] with a := 0x01#8, y := 0x20#8 } _
      (seen State.a) = some (0x00#8, 0x03#8, 0x0203#16, 4) := by decide
theorem test_adcIndX :
    after { at0200 [0x61#8, 0x00#8] [(0x0001, 0x20#8), (0x2000, 0x05#8)] with a := 0x10#8 } _
      (seen State.a) = some (0x15#8, 0x00#8, 0x0202#16, 2) := by decide
/-- Program P2, step 11. -/
theorem test_adcIndX_crosses :
    after { at0200 [0x61#8, 0xFB#8] [(0x0040, 0x00#8), (0x0041, 0x03#8), (0x0300, 0x5A#8)] with a := 0x01#8, x := 0x45#8 } _
      (seen State.a) = some (0x5B#8, 0x00#8, 0x0202#16, 3) := by decide
theorem test_adcIndY :
    after { at0200 [0x71#8, 0x40#8] [(0x0040, 0xFF#8), (0x0041, 0x02#8), (0x0300, 0x80#8)] with a := 0x80#8, y := 0x01#8 } _
      (seen State.a) = some (0x00#8, 0x43#8, 0x0202#16, 2) := by decide

/-! LDA, LDX, LDY: sections V3 and V5, examples E4 to E6, and R130 to R132 where they have no row. -/

theorem test_ldaImm :
    after { at0200 [0xA9#8, 0x80#8] [] with a := 0x33#8, x := 0x33#8, y := 0x33#8, p := 0x41#8 } _
      (seen State.a) = some (0x80#8, 0xC1#8, 0x0202#16, 2) := by decide
theorem test_ldaImm_clears :
    after { at0200 [0xA9#8, 0x05#8] [] with p := 0xC3#8 } _
      (seen State.a) = some (0x05#8, 0x41#8, 0x0202#16, 2) := by decide
theorem test_ldaZp :
    after (at0200 [0xA5#8, 0x10#8] [(0x0010, 0x44#8)]) _
      (seen State.a) = some (0x44#8, 0x00#8, 0x0202#16, 3) := by decide
theorem test_ldaZpX_wraps :
    after { at0200 [0xB5#8, 0xF0#8] [(0x0010, 0x55#8)] with x := 0x20#8 } _
      (seen State.a) = some (0x55#8, 0x00#8, 0x0202#16, 4) := by decide
theorem test_ldaAbs :
    after (at0200 [0xAD#8, 0x34#8, 0x12#8] [(0x1234, 0x99#8)]) _
      (seen State.a) = some (0x99#8, 0x80#8, 0x0203#16, 3) := by decide
theorem test_ldaAbsX_wraps :
    after { at0200 [0xBD#8, 0xFF#8, 0xFF#8] [(0x0000, 0x77#8)] with x := 0x01#8 } _
      (seen State.a) = some (0x77#8, 0x00#8, 0x0203#16, 4) := by decide
theorem test_ldaAbsX_stays :
    after { at0200 [0xBD#8, 0xF0#8, 0x12#8] [(0x12FF, 0x22#8)] with x := 0x0F#8 } _
      (seen State.a) = some (0x22#8, 0x00#8, 0x0203#16, 3) := by decide
theorem test_ldaAbsY_crosses :
    after { at0200 [0xB9#8, 0xFF#8, 0x12#8] [(0x1300, 0x33#8)] with y := 0x01#8 } _
      (seen State.a) = some (0x33#8, 0x00#8, 0x0203#16, 4) := by decide
theorem test_ldaIndX_crosses :
    after { at0200 [0xA1#8, 0xFB#8] [(0x0040, 0x10#8), (0x0041, 0x03#8), (0x0310, 0xCD#8)] with x := 0x45#8 } _
      (seen State.a) = some (0xCD#8, 0x80#8, 0x0202#16, 3) := by decide
theorem test_ldaIndX_pointer_at_ff :
    after { at0200 [0xA1#8, 0xFE#8] [(0x0000, 0x56#8), (0x00FF, 0x34#8), (0x0100, 0x12#8), (0x1234, 0xA1#8)] with x := 0x01#8 } _
      (seen State.a) = some (0xA1#8, 0x80#8, 0x0202#16, 2) := by decide
theorem test_ldaIndY_wrap_parameter :
    after { at0200 [0xB1#8, 0xFF#8] [(0x0000, 0x56#8), (0x00FF, 0x34#8), (0x0100, 0x12#8), (0x1234, 0xA1#8), (0x5634, 0xB2#8)] with cfg := ⟨true, false⟩ } _
      (seen State.a) = some (0xB2#8, 0x80#8, 0x0202#16, 2) := by decide
theorem test_ldaIndY_penalty_parameter :
    after { at0200 [0xB1#8, 0x40#8] [(0x0040, 0xF8#8), (0x0041, 0x02#8), (0x0308, 0x5D#8)] with y := 0x10#8, cfg := ⟨false, true⟩ } _
      (seen State.a) = some (0x5D#8, 0x00#8, 0x0202#16, 3) := by decide
theorem test_ldxImm :
    after { at0200 [0xA2#8, 0x00#8] [] with a := 0x33#8, x := 0x33#8, y := 0x33#8, p := 0x41#8 } _
      (seen State.x) = some (0x00#8, 0x43#8, 0x0202#16, 2) := by decide
theorem test_ldxZp :
    after (at0200 [0xA6#8, 0x10#8] [(0x0010, 0x80#8)]) _
      (seen State.x) = some (0x80#8, 0x80#8, 0x0202#16, 3) := by decide
theorem test_ldxZpY_wraps :
    after { at0200 [0xB6#8, 0xFF#8] [(0x0001, 0x66#8)] with y := 0x02#8 } _
      (seen State.x) = some (0x66#8, 0x00#8, 0x0202#16, 5) := by decide
theorem test_ldxAbs :
    after (at0200 [0xAE#8, 0x34#8, 0x12#8] [(0x1234, 0x99#8)]) _
      (seen State.x) = some (0x99#8, 0x80#8, 0x0203#16, 3) := by decide
theorem test_ldxAbsY_crosses :
    after { at0200 [0xBE#8, 0xFF#8, 0x12#8] [(0x1300, 0x33#8)] with y := 0x01#8 } _
      (seen State.x) = some (0x33#8, 0x00#8, 0x0203#16, 4) := by decide
theorem test_ldyImm :
    after { at0200 [0xA0#8, 0xFF#8] [] with a := 0x33#8, x := 0x33#8, y := 0x33#8, p := 0x41#8 } _
      (seen State.y) = some (0xFF#8, 0xC1#8, 0x0202#16, 2) := by decide
theorem test_ldyZp :
    after (at0200 [0xA4#8, 0x10#8] [(0x0010, 0x80#8)]) _
      (seen State.y) = some (0x80#8, 0x80#8, 0x0202#16, 3) := by decide
theorem test_ldyZpX_wraps :
    after { at0200 [0xB4#8, 0xF0#8] [(0x0010, 0x55#8)] with x := 0x20#8 } _
      (seen State.y) = some (0x55#8, 0x00#8, 0x0202#16, 4) := by decide
theorem test_ldyAbs :
    after (at0200 [0xAC#8, 0x34#8, 0x12#8] [(0x1234, 0x99#8)]) _
      (seen State.y) = some (0x99#8, 0x80#8, 0x0203#16, 3) := by decide
theorem test_ldyAbsX_stays :
    after { at0200 [0xBC#8, 0x80#8, 0x02#8] [(0x02FF, 0x05#8)] with x := 0x7F#8 } _
      (seen State.y) = some (0x05#8, 0x00#8, 0x0203#16, 3) := by decide

/-! STA, STX: section V6. -/

theorem test_staZp :
    after { at0200 [0x85#8, 0x24#8] [] with a := 0x2A#8, p := 0xC3#8 } _
      (seen (fun t => t.readByte 0x0024#16)) = some (0x2A#8, 0xC3#8, 0x0202#16, 3) := by decide
theorem test_staZpX_wraps :
    after { at0200 [0x95#8, 0xF0#8] [] with a := 0x01#8, x := 0x20#8, p := 0x02#8 } _
      (seen (fun t => t.readByte 0x0010#16)) = some (0x01#8, 0x02#8, 0x0202#16, 4) := by decide
theorem test_staAbs :
    after { at0200 [0x8D#8, 0x34#8, 0x12#8] [] with a := 0x80#8, p := 0x41#8 } _
      (seen (fun t => t.readByte 0x1234#16)) = some (0x80#8, 0x41#8, 0x0203#16, 3) := by decide
theorem test_staAbsX_wraps :
    after { at0200 [0x9D#8, 0xFF#8, 0xFF#8] [] with a := 0x07#8, x := 0x02#8 } _
      (seen (fun t => t.readByte 0x0001#16)) = some (0x07#8, 0x00#8, 0x0203#16, 4) := by decide
theorem test_staAbsX_stays :
    after { at0200 [0x9D#8, 0x00#8, 0x12#8] [] with a := 0x05#8 } _
      (seen (fun t => t.readByte 0x1200#16)) = some (0x05#8, 0x00#8, 0x0203#16, 4) := by decide
theorem test_staAbsY_crosses :
    after { at0200 [0x99#8, 0x01#8, 0x02#8] [] with a := 0x06#8, y := 0xFF#8 } _
      (seen (fun t => t.readByte 0x0300#16)) = some (0x06#8, 0x00#8, 0x0203#16, 4) := by decide
theorem test_staIndX :
    after { at0200 [0x81#8, 0x20#8] [(0x0025, 0x03#8)] with a := 0x08#8, x := 0x04#8, p := 0x80#8 } _
      (seen (fun t => t.readByte 0x0300#16)) = some (0x08#8, 0x80#8, 0x0202#16, 2) := by decide
theorem test_staIndX_crosses :
    after { at0200 [0x81#8, 0xFB#8] [(0x0040, 0x10#8), (0x0041, 0x03#8)] with a := 0x09#8, x := 0x45#8 } _
      (seen (fun t => t.readByte 0x0310#16)) = some (0x09#8, 0x00#8, 0x0202#16, 3) := by decide
theorem test_staIndY :
    after { at0200 [0x91#8, 0x40#8] [(0x0041, 0x03#8)] with a := 0x0A#8, y := 0xFF#8 } _
      (seen (fun t => t.readByte 0x03FF#16)) = some (0x0A#8, 0x00#8, 0x0202#16, 2) := by decide
theorem test_stxZp :
    after { at0200 [0x86#8, 0x30#8] [] with x := 0xFF#8, p := 0x01#8 } _
      (seen (fun t => t.readByte 0x0030#16)) = some (0xFF#8, 0x01#8, 0x0202#16, 3) := by decide
theorem test_stxZpY_wraps :
    after { at0200 [0x96#8, 0xFE#8] [] with x := 0x11#8, y := 0x03#8 } _
      (seen (fun t => t.readByte 0x0001#16)) = some (0x11#8, 0x00#8, 0x0202#16, 5) := by decide
theorem test_stxAbs_zero :
    after { at0200 [0x8E#8, 0x00#8, 0x40#8] [(0x4000, 0xEE#8)] with p := 0x82#8 } _
      (seen (fun t => t.readByte 0x4000#16)) = some (0x00#8, 0x82#8, 0x0203#16, 3) := by decide

/-! NOP and the instructions across 0xFFFF: sections V7 and V9. -/

/-- A state at the last address with an opcode byte there and a byte at 0x0000. -/
def atFFFF (op operand : Byte) : State :=
  { State.construct Config.specDefault ((Memory.write [] 0xFFFF#16 op).write 0x0000#16 operand) with
    pc := 0xFFFF#16, a := 0x12#8, x := 0x34#8, y := 0x56#8, p := 0xC3#8, bootstrapped := true }

theorem test_nop :
    after { at0200 [0xEA#8] [] with a := 0x12#8 } _
      (seen State.a) = some (0x12#8, 0x00#8, 0x0201#16, 2) := by decide
theorem test_nop_wraps : after (atFFFF 0xEA#8 0x00#8) _ (seen State.a) = some (0x12#8, 0xC3#8, 0x0000#16, 2) := by decide
/-- R131 by hand, its operand byte at 0x0000: Z and N of 0xC3 are cleared, C and V kept. -/
theorem test_ldxImm_straddles :
    after (atFFFF 0xA2#8 0x42#8) _ (seen State.x) = some (0x42#8, 0x41#8, 0x0001#16, 2) := by decide

/-! The error: section V8 and R163. -/

theorem test_unsupported_wraps :
    after (atFFFF 0xFF#8 0x00#8) _ (fun t => ((t.a, t.x, t.y, t.sp), t.p, t.pc, t.cyc)) =
      some ((0x12#8, 0x34#8, 0x56#8, 0xFF#8), 0xC3#8, 0x0000#16, 1) := by decide
theorem test_unsupported_recorded :
    after (atFFFF 0xFF#8 0x00#8) _ (fun t => (t.result, t.faultRecord)) =
      some (some (.error (.unsupportedOpcode 0xFF#8)), some (.unsupportedOpcode 0xFF#8)) := by decide
/-- The record keeps the first error (log entry 4), and a later good step reports Ok. -/
theorem test_record_is_sticky :
    after { at0200 [0xEA#8] [] with faultRecord := some (.unsupportedOpcode 0x02#8) } _
      (fun t => (t.result, t.faultRecord)) = some (some .ok, some (.unsupportedOpcode 0x02#8)) := by decide

/-! Loading, bootstrap and boot: section V10. -/

theorem test_step_before_bootstrap : step (State.construct Config.specDefault []) = .refused .stepBeforeBootstrap := by
  rfl
theorem test_bootstrap :
    (State.construct Config.specDefault [(0xFFFC, 0x34#8), (0xFFFD, 0x12#8)]).bootstrap.pc = 0x1234#16 := by decide
theorem test_bootstrap_keeps_cycles : ({ State.reset with cyc := 3 } : State).bootstrap.cyc = 3 := by decide
/-- What a host operation's next state shows. -/
def shown (r : Result) (α : Type) (f : State → α) : Option α :=
  match r with
  | .next t => some (f t)
  | _ => none
theorem test_load_three_bytes :
    shown (State.reset.loadProgram [0x11#8, 0x22#8, 0x33#8]) _ State.mem =
      some [(0x8000, 0x11#8), (0x8001, 0x22#8), (0x8002, 0x33#8)] := by decide

/-! The host's check words. -/

theorem test_fetch_word_runs :
    after (State.reset.withFetchWord 24 0x12348D) _ (fun t => (t.pc, t.cyc, t.result)) =
      some (0x0003#16, 3, some .ok) := by decide
theorem test_reset_fetches_unsupported :
    after State.reset _ (fun t => (t.pc, t.result)) =
      some (0x0001#16, some (.error (.unsupportedOpcode 0x00#8))) := by decide

/-! ### Witnesses: the hypotheses of each statement that has some -/

/-- A state with `NOP` at PC and one with an unsupported byte there. -/
def good : State := at0200 [0xEA#8] []
def bad : State := at0200 [0x02#8] []

/-- LoadProgramEffect: both lengths at the limit, an address on each side of the loaded bytes. -/
theorem test_witness_LoadProgramEffect :
    ([] : List Byte).length ≤ 32768 ∧ (List.replicate 32768 0xEA#8).length ≤ 32768 ∧
    32767 < (List.replicate 32768 0xEA#8).length ∧ (0x7FFF#16).toNat < 0x8000 ∧
    0x8000 + [0x11#8, 0x22#8, 0x33#8].length ≤ (0x8003#16).toNat ∧
    32768 < (List.replicate 32769 0xEA#8).length := by
  simp only [List.length_replicate]; decide

/-- BuildImageContents: both sides of the length limit, and the offsets beside the vector. -/
theorem test_witness_BuildImageContents :
    (List.replicate 32768 0xEA#8).length ≤ 32768 ∧ 32768 < (List.replicate 32769 0xEA#8).length ∧
    (0x7FFB < 32768 ∧ 0x7FFB ≠ 0x7FFC ∧ 0x7FFB ≠ 0x7FFD) ∧ (32767 < 32768 ∧ 32767 ≠ 0x7FFC ∧ 32767 ≠ 0x7FFD) := by
  simp only [List.length_replicate]; decide

theorem test_witness_BootState :
    ([] : List Byte).length ≤ 32768 ∧ (List.replicate 32768 0xEA#8).length ≤ 32768 ∧
    32767 < 32768 ∧ (0x7FFF#16).toNat < 0x8000 := by
  simp only [List.length_replicate]; decide

/-- StoreChangesOneByte: two addresses that differ. -/
theorem test_witness_StoreChangesOneByte : (0xFFFF#16 : Addr) ≠ 0x0000#16 := by decide

/-- Two canonical memories, one built by writes in the other order, that read alike. -/
theorem test_witness_CanonicalMemoriesReadingAlikeAreEqual :
    let m : Memory := [(0, 0x01#8), (65535, 0x02#8)]
    let m' : Memory := (Memory.write [] 0xFFFF#16 0x02#8).write 0x0000#16 0x01#8
    m.wf = true ∧ m'.wf = true ∧ ∀ adr, m.read adr = m'.read adr :=
  ⟨by decide, by decide, fun _ => rfl⟩

theorem test_witness_FlagsAreIndependent :
    Flag.n ≠ Flag.c ∧ (Flag.mask .c).getLsbD 1 = false ∧ (Flag.mask .n).getLsbD 5 = false ∧
    (Flag.mask .n).getLsbD 8 = false := by decide

theorem test_witness_SetZNRule : (0 ≠ 1 ∧ 0 ≠ 7) ∧ (6 ≠ 1 ∧ 6 ≠ 7) ∧ (8 ≠ 1 ∧ 8 ≠ 7) := by decide

theorem test_witness_AdcIgnoresDecimal :
    (Instr.adcImm 0x01#8).mnemonic = .adc ∧ (Instr.adcIndY 0xFF#8).mnemonic = .adc := by decide

theorem test_witness_EncodeOfDecode : decode [0x8D#8, 0x34#8, 0x12#8, 0xEA#8] = .ok (.staAbs 0x1234#16, [0xEA#8]) := by
  rfl

/-- TableRowsDecode: the first row and the last. -/
theorem test_witness_TableRowsDecode :
    ((0x69#8, .adc, .immediate) : SpecRow) ∈ specTable ∧ ((0xEA#8, .nop, .implied) : SpecRow) ∈ specTable := by decide

/-- UnsupportedOpcodeBytes: a byte of each side. -/
theorem test_witness_UnsupportedOpcodeBytes :
    (∀ row ∈ specTable, row.1 ≠ 0x00#8) ∧ ¬ ∀ row ∈ specTable, row.1 ≠ 0xEA#8 := by decide

/-- StepRunsTheDecodedInstruction: in the middle of memory and across its end. -/
theorem test_witness_StepRunsTheDecodedInstruction :
    (good.bootstrapped = true ∧ Instr.nop.wellFormed = true ∧
      decode good.bytesAtPc = .ok (.nop, [0x00#8, 0x00#8])) ∧
    ((atFFFF 0xA9#8 0x42#8).bootstrapped = true ∧ (Instr.ldaImm 0x42#8).wellFormed = true ∧
      decode (atFFFF 0xA9#8 0x42#8).bytesAtPc = .ok (.ldaImm 0x42#8, [0x00#8])) :=
  ⟨⟨rfl, rfl, rfl⟩, rfl, rfl, rfl⟩

/-- StepReportsUnsupportedOpcode, StepAlwaysEnds, StepIsTheSpecsStep. -/
theorem test_witness_StepReportsUnsupportedOpcode :
    (bad.bootstrapped = true ∧ lookup (bad.readByte bad.pc) = none) ∧
    ((atFFFF 0xFF#8 0x00#8).bootstrapped = true ∧
      lookup ((atFFFF 0xFF#8 0x00#8).readByte (atFFFF 0xFF#8 0x00#8).pc) = none) := ⟨⟨rfl, rfl⟩, rfl, rfl⟩
theorem test_witness_StepAlwaysEnds : good.bootstrapped = true ∧ bad.bootstrapped = true := by decide
theorem test_witness_StepIsTheSpecsStep : good.bootstrapped = true ∧ bad.bootstrapped = true := by decide
theorem test_witness_StepBeforeBootstrapIsRefused :
    (State.construct Config.specDefault []).bootstrapped = false := by decide

/-- StepResult: a step of each result. -/
theorem test_witness_StepResult :
    (∃ t, step good = .next t ∧ t.result = some .ok) ∧
    ∃ t, step bad = .next t ∧ t.result = some (.error (.unsupportedOpcode 0x02#8)) :=
  ⟨⟨_, rfl, rfl⟩, _, rfl, rfl⟩

/-- StepAdvancesPc: each clause, the second where PC wraps. -/
theorem test_witness_StepAdvancesPc :
    (∃ t, step good = .next t ∧ decode good.bytesAtPc = .ok (.nop, [0x00#8, 0x00#8])) ∧
    ∃ t, step (atFFFF 0xFF#8 0x00#8) = .next t ∧
      lookup ((atFFFF 0xFF#8 0x00#8).readByte (atFFFF 0xFF#8 0x00#8).pc) = none :=
  ⟨⟨_, rfl, rfl⟩, _, rfl, rfl⟩

/-- StepCycleCosts: each clause, the first where the page sum is just crossed. -/
theorem test_witness_StepCycleCosts :
    (∃ t, step { at0200 [0xBD#8, 0xF0#8, 0x12#8] [] with x := 0x10#8 } = .next t ∧
      decode (at0200 [0xBD#8, 0xF0#8, 0x12#8] []).bytesAtPc = .ok (.ldaAbsX 0x12F0#16, [])) ∧
    ∃ t, step bad = .next t ∧ lookup (bad.readByte bad.pc) = none :=
  ⟨⟨_, rfl, rfl⟩, _, rfl, rfl⟩

/-- StepKeepsUnusedState and StackPointerIsNotRead. -/
theorem test_witness_StepKeepsUnusedState : (∃ t, step good = .next t) ∧ ∃ t, step bad = .next t :=
  ⟨⟨_, rfl⟩, _, rfl⟩
theorem test_witness_StackPointerIsNotRead : (∃ t, step good = .next t) ∧ ∃ t, step bad = .next t :=
  ⟨⟨_, rfl⟩, _, rfl⟩

/-- RegistersHaveTheirWriters: NOP meets the premise of every clause, and each other clause's own writer of the rest. -/
theorem test_witness_RegistersHaveTheirWriters :
    (∃ t, exec .nop good = .next t) ∧ Instr.nop.mnemonic ≠ .lda ∧ Instr.nop.mnemonic ≠ .adc ∧
    Instr.nop.mnemonic ≠ .ldx ∧ Instr.nop.mnemonic ≠ .ldy ∧ Instr.nop.mnemonic = .nop ∧
    (∃ t, exec (.adcImm 0xFF#8) good = .next t) ∧ (Instr.adcImm 0xFF#8).mnemonic ≠ .ldx ∧
    (∃ t, exec (.staZp 0x00#8) good = .next t) ∧ (Instr.staZp 0x00#8).mnemonic = .sta ∧
    (∃ t, exec (.stxAbs 0xFFFF#16) good = .next t) ∧ (Instr.stxAbs 0xFFFF#16).mnemonic = .stx :=
  ⟨⟨_, rfl⟩, by decide, by decide, by decide, by decide, rfl, ⟨_, rfl⟩, by decide, ⟨_, rfl⟩, rfl, ⟨_, rfl⟩, rfl⟩

/-- OnlyStoresWriteMemory: a step that changes the byte at the first address and one at the last. -/
theorem test_witness_OnlyStoresWriteMemory :
    (∃ t, step { at0200 [0x85#8, 0x00#8] [] with a := 0x07#8 } = .next t ∧
      t.readByte 0x0000#16 ≠ (at0200 [0x85#8, 0x00#8] []).readByte 0x0000#16) ∧
    ∃ t, step { at0200 [0x8E#8, 0xFF#8, 0xFF#8] [] with x := 0x07#8 } = .next t ∧
      t.readByte 0xFFFF#16 ≠ (at0200 [0x8E#8, 0xFF#8, 0xFF#8] []).readByte 0xFFFF#16 :=
  ⟨⟨_, rfl, by decide⟩, _, rfl, by decide⟩

theorem test_witness_OnlyCarryIsRead : (Flag.d ≠ .c ∧ ∃ t, step good = .next t) ∧ Flag.n ≠ .c := by
  exact ⟨⟨by decide, _, rfl⟩, by decide⟩

/-- FaultRecordIsSticky: a step from a full record, one that leaves an empty record empty and one that fills it. -/
theorem test_witness_FaultRecordIsSticky :
    (∃ t, step { bad with faultRecord := some (.unsupportedOpcode 0x40#8) } = .next t) ∧
    (good.Clean ∧ ∃ t, step good = .next t) ∧
    (bad.Clean ∧ ∃ t, step bad = .next t ∧ t.result = some (.error (.unsupportedOpcode 0x02#8))) :=
  ⟨⟨_, rfl⟩, ⟨rfl, _, rfl⟩, rfl, _, rfl, rfl⟩

/-- StepKeepsInvariant. -/
theorem test_witness_StepKeepsInvariant : good.Inv ∧ (∃ t, step good = .next t) ∧ bad.Inv ∧ ∃ t, step bad = .next t :=
  ⟨⟨rfl, rfl, rfl, by decide, fun _ h => (by cases h), fun _ h => (by cases h)⟩, ⟨_, rfl⟩,
    ⟨rfl, rfl, rfl, by decide, fun _ h => (by cases h), fun _ h => (by cases h)⟩, _, rfl⟩

/-- HostOperationsKeepInvariant: a canonical INIT_MEM, and a load and a bootstrap of a state with the invariant. -/
theorem test_witness_HostOperationsKeepInvariant :
    Memory.wf [(0, 0x01#8), (65535, 0x02#8)] = true ∧ good.Inv ∧ ∃ t, good.loadProgram [0x11#8] = .next t :=
  ⟨rfl, test_witness_StepKeepsInvariant.1, _, rfl⟩

/-- RunStopsAtTheFirstError and RunWithoutErrorIsItsSteps. -/
theorem test_witness_RunStopsAtTheFirstError :
    bad.Clean ∧ ∃ t, run 1 bad = .next (t, some (.unsupportedOpcode 0x02#8)) := ⟨rfl, _, rfl⟩
theorem test_witness_RunWithoutErrorIsItsSteps :
    (∃ t, run 0 bad = .next (t, none)) ∧ good.Clean ∧ ∃ t, run 1 good = .next (t, none) := ⟨⟨_, rfl⟩, rfl, _, rfl⟩

end Sys2Proof.Tests
end

section
/-! SUPPORT. The flag bank as a map from flags to Booleans, and bytes of P that agree but for one flag (R27, R28). -/

namespace Sys2Proof.Machine

theorem Flag.position_injective : Function.Injective Flag.position := by
  intro f g
  cases f <;> cases g <;> simp [Flag.position]

/-- `get` after `set` (R27, R28): the value set for the same flag, the old value for every other. -/
theorem getFlag_setFlag (p : Byte) (f g : Flag) (v : Bool) :
    getFlag (setFlag p f v) g = if g = f then v else getFlag p g := by
  simp only [getFlag_eq, setFlag_getLsbD, Flag.position_injective.eq_iff]

/-- SetZN keeps every bit that is not Z's or N's (R31). -/
theorem State.setZN_p_getLsbD (s : State) (v : Byte) {k : Nat} (hz : k ≠ 1) (hn : k ≠ 7) :
    (s.setZN v).p.getLsbD k = s.p.getLsbD k := by
  simp [setFlag_getLsbD, Flag.position, hz, hn]

/-- The N test of R31 as a comparison of numbers. -/
theorem and_0x80_ne_zero (v : Byte) : (v &&& 0x80#8 != 0#8) = decide (128 ≤ v.toNat) := by
  have hbit : (v &&& 0x80#8 != 0#8) = v.getLsbD 7 := getFlag_eq v .n
  rw [hbit, ← v.msb_eq_decide, v.msb_eq_getLsbD_last]

/-- SetZN leaves Z and N as the byte says (R31). -/
theorem State.setZN_flagsZN (s : State) (v : Byte) : ZNOf v (s.setZN v) := by
  constructor
  · simp [State.flag, getFlag_setFlag]
  · simp [State.flag, getFlag_setFlag, and_0x80_ne_zero]

/-- Two values of P with the same flags but for `f`. -/
def AgreeExcept (f : Flag) (q p : Byte) : Prop := ∀ g, g ≠ f → getFlag q g = getFlag p g

theorem agreeExcept_setFlag (f : Flag) (p : Byte) (v : Bool) : AgreeExcept f (setFlag p f v) p := by
  intro g hg
  simp [getFlag_setFlag, hg]

/-- The same flag set alike on both sides keeps the agreement. -/
theorem AgreeExcept.setFlag {f : Flag} {q p : Byte} (h : AgreeExcept f q p) (g : Flag) (v : Bool) :
    AgreeExcept f (setFlag q g v) (setFlag p g v) := by
  intro k hk
  simp [getFlag_setFlag, h k hk]

/-- The bits I, D, B and 5 alone decide what the invariant says of P. -/
theorem and_0x3C_congr {p q : Byte} (h : ∀ k, 2 ≤ k → k ≤ 5 → q.getLsbD k = p.getLsbD k) :
    q &&& 0x3C#8 = p &&& 0x3C#8 := by
  have hmask : ∀ k < 8, (0x3C#8).getLsbD k = decide (2 ≤ k ∧ k ≤ 5) := by decide
  apply BitVec.eq_of_getLsbD_eq
  intro k hk
  rw [BitVec.getLsbD_and, BitVec.getLsbD_and, hmask k hk]
  by_cases hin : 2 ≤ k ∧ k ≤ 5
  · rw [h k hin.1 hin.2]
  · simp [hin]

end Sys2Proof.Machine
end

section
/-! SUPPORT. Every handler in one form: the cycles of its mode, then one action on the operand in hand (R93, R107). -/

namespace Sys2Proof.Machine

/-- What a handler does once its mode's cycles are counted: the operation with its operand in hand. -/
inductive Action where
  | adc (m : Byte)
  | lda (m : Byte)
  | ldx (m : Byte)
  | ldy (m : Byte)
  | store (adr : Addr) (v : Byte)
  | nop

/-- The action on a state. -/
def Action.apply (s : State) : Action → State
  | .adc m => s.adc m
  | .lda m => s.lda m
  | .ldx m => s.ldx m
  | .ldy m => s.ldy m
  | .store adr v => s.writeByte adr v
  | .nop => s

/-- The value a read-class instruction consumes (R83, R93). No instruction with the implied mode reads one. -/
def State.operandValue (s : State) : Operand → Byte
  | .implied => Memory.unlisted
  | .immediate v => v
  | .mem o => s.readByte (s.effAddr o)

/-- The action of a store-class instruction (R93). None has an operand outside memory. -/
def State.storeAction (s : State) (v : Byte) : Operand → Action
  | .mem o => .store (s.effAddr o) v
  | _ => .nop

/-- The action of each instruction, by its mnemonic (R107). -/
def State.actionOf (s : State) (i : Instr) : Action :=
  match i.mnemonic with
  | .adc => .adc (s.operandValue i.operand)
  | .lda => .lda (s.operandValue i.operand)
  | .ldx => .ldx (s.operandValue i.operand)
  | .ldy => .ldy (s.operandValue i.operand)
  | .sta => s.storeAction s.a i.operand
  | .stx => s.storeAction s.x i.operand
  | .nop => .nop

/-- The cycles of each instruction beyond its fetches (R83 to R91, R150). -/
def State.cyclesOf (s : State) (i : Instr) : Nat :=
  match i.operand with
  | .implied => 1
  | .immediate _ => 0
  | .mem o => s.extraCycles (accessClass i.mnemonic) o

/-- Every instruction completes: its cycles are added and its action is applied. -/
theorem exec_eq (i : Instr) (s : State) :
    exec i s = .next ((s.actionOf i).apply (s.addCycles (s.cyclesOf i))) := by
  cases i <;> rfl

theorem exec_next_iff {i : Instr} {s t : State} :
    exec i s = .next t ↔ (s.actionOf i).apply (s.addCycles (s.cyclesOf i)) = t := by
  rw [exec_eq, Host.Outcome.next.injEq]

/-! ### The frame of an action -/

section Frame
variable (s : State) (act : Action)

@[simp] theorem Action.apply_sp : (act.apply s).sp = s.sp := by cases act <;> rfl
@[simp] theorem Action.apply_pc : (act.apply s).pc = s.pc := by cases act <;> rfl
@[simp] theorem Action.apply_cyc : (act.apply s).cyc = s.cyc := by cases act <;> rfl
@[simp] theorem Action.apply_bootstrapped : (act.apply s).bootstrapped = s.bootstrapped := by cases act <;> rfl
@[simp] theorem Action.apply_faultRecord : (act.apply s).faultRecord = s.faultRecord := by cases act <;> rfl
@[simp] theorem Action.apply_result : (act.apply s).result = s.result := by cases act <;> rfl
@[simp] theorem Action.apply_cfg : (act.apply s).cfg = s.cfg := by cases act <;> rfl

end Frame

/-- No action writes I, D, B or bit 5 of P (R26, R30). -/
theorem Action.apply_p_getLsbD (s : State) (act : Action) {k : Nat} (hlo : 2 ≤ k) (hhi : k ≤ 5) :
    (act.apply s).p.getLsbD k = s.p.getLsbD k := by
  have hload (v : Byte) : (s.setZN v).p.getLsbD k = s.p.getLsbD k := s.setZN_p_getLsbD v (by omega) (by omega)
  cases act with
  | adc m =>
    have h0 : k ≠ 0 := by omega
    have h1 : k ≠ 1 := by omega
    have h6 : k ≠ 6 := by omega
    have h7 : k ≠ 7 := by omega
    simp [Action.apply, State.adc_p, setFlag_getLsbD, Flag.position, h0, h1, h6, h7]
  | lda m | ldx m | ldy m => exact hload m
  | store adr v | nop => rfl

/-- Every action keeps the memory canonical. -/
theorem Action.apply_wf {s : State} (h : s.mem.wf = true) (act : Action) : (act.apply s).mem.wf = true := by
  cases act with
  | store adr v => exact Memory.wf_write h adr v
  | adc m | lda m | ldx m | ldy m | nop => exact h

/-! ### The cycles of an instruction -/

/-- The length is the opcode byte and the operand bytes (R60, R61). -/
theorem length_eq (i : Instr) : i.length = 1 + i.operand.bytes.length := by
  cases i <;> rfl

/-- A mode's extra cycles and its operand bytes together: Zero Page,Y has the most (R84 to R91). -/
theorem State.extraCycles_add_bytes_le (s : State) (cls : AccessClass) (o : MemOperand) :
    s.extraCycles cls o + o.bytes.length ≤ 4 := by
  have habs (lsb idx : Byte) : absIndexedCycles cls lsb idx ≤ 1 := by
    cases cls with
    | read => simp only [absIndexedCycles]; split <;> decide
    | store => exact Nat.le_refl 1
  cases o with
  | zeroPage b | zeroPageX b | zeroPageY b | absolute a => simp [State.extraCycles, MemOperand.bytes]
  | absoluteX a | absoluteY a =>
    simp only [State.extraCycles, MemOperand.bytes, List.length_cons, List.length_nil]
    exact Nat.add_le_add_right (Nat.le_trans (habs _ _) (by decide)) 2
  | indirectX b | indirectY b =>
    simp only [State.extraCycles, MemOperand.bytes, List.length_cons, List.length_nil]
    split <;> decide

/-- No instruction costs more than five cycles, its fetches counted (R191). -/
theorem State.cyclesOf_add_length_le (s : State) (i : Instr) : s.cyclesOf i + i.length ≤ 5 := by
  rw [length_eq]
  unfold State.cyclesOf
  cases i.operand with
  | implied | immediate v => simp [Operand.bytes]
  | mem o =>
    have h := s.extraCycles_add_bytes_le (accessClass i.mnemonic) o
    simp only [Operand.bytes]
    omega

end Sys2Proof.Machine
end

section
/-! SUPPORT. A step as one equation per case (R100): the instruction decoded from the bytes at PC runs on the
fetched state, or the unsupported opcode is raised past its one byte. -/

namespace Sys2Proof.Machine

/-- The state after the fetch of an unsupported opcode, with the error raised (R66, R161). -/
def State.raisedUnsupported (s : State) : State :=
  s.startStep.afterFetch.raise (.unsupportedOpcode (s.readByte s.pc))

/-- `n` fetches move PC and the accumulator by `n` (R80). -/
theorem State.fetchBytes_snd (n : Nat) (s : State) :
    (s.fetchBytes n).2 = { s with pc := s.pc + BitVec.ofNat 16 n, cyc := s.cyc + n } := by
  induction n generalizing s with
  | zero => simp [State.fetchBytes]
  | succ n ih =>
    simp [State.fetchBytes, ih, State.afterFetch, BitVec.ofNat_add, BitVec.add_assoc, BitVec.add_comm 1#16,
      Nat.add_assoc, Nat.add_comm 1]

/-- The opcode fetch and an instruction's operand fetches leave its fetched state (R102, R104). -/
theorem State.fetchBytes_snd_eq_fetched (s : State) {i : Instr} {n : Nat} (h : i.length = n + 1) :
    (s.startStep.afterFetch.fetchBytes n).2 = s.fetched i := by
  simp [State.fetchBytes_snd, State.fetched, h, State.startStep, State.afterFetch, BitVec.ofNat_add,
    BitVec.add_assoc, BitVec.add_comm 1#16, Nat.add_comm 1]

/-- The instruction fetch reads what the decoder reads from the bytes at PC, and leaves the fetched state. -/
theorem State.fetchInstr_decodes {s : State} {sh : Shape} (h : lookup (s.readByte s.pc) = some sh) :
    ∃ i rest, decode s.bytesAtPc = .ok (i, rest) ∧ s.startStep.fetchInstr = (.ok i, s.fetched i) := by
  have hfetch := State.fetchInstr_supported (s := s.startStep) h
  have hdecode : decode s.bytesAtPc = sh.build [s.readByte (s.pc + 1), s.readByte (s.pc + 1 + 1)] := by
    simp [State.bytesAtPc, decode, h, BitVec.add_assoc]
  cases lookup_cases h with
  | f1 => exact ⟨_, _, hdecode, hfetch⟩
  | f2 mk hmk =>
    have hlen (b : Byte) : (mk b).length = 2 := by simp [length_eq, hmk]
    exact ⟨_, _, hdecode, hfetch.trans (Prod.ext rfl (s.fetchBytes_snd_eq_fetched (hlen _)))⟩
  | f3 mk hmk =>
    have hlen (a : Addr) : (mk a).length = 3 := by simp [length_eq, hmk]
    exact ⟨_, _, hdecode, hfetch.trans (Prod.ext rfl (s.fetchBytes_snd_eq_fetched (hlen _)))⟩

/-- A step whose bytes at PC decode runs that instruction on the fetched state (R100). -/
theorem step_of_decode {s : State} {i : Instr} {rest : List Byte} (hb : s.bootstrapped = true)
    (h : decode s.bytesAtPc = .ok (i, rest)) : step s = exec i (s.fetched i) := by
  cases hl : lookup (s.readByte s.pc) with
  | none => simp [State.bytesAtPc, decode, hl] at h
  | some sh =>
    obtain ⟨j, rest', hj, hfetch⟩ := State.fetchInstr_decodes hl
    obtain ⟨rfl, -⟩ : i = j ∧ rest = rest' := by simpa using h.symm.trans hj
    simp [step, hb, hfetch]

/-- A step at an opcode byte with no entry raises the error past that byte (R161). -/
theorem step_of_unsupported {s : State} (hb : s.bootstrapped = true) (h : lookup (s.readByte s.pc) = none) :
    step s = .next s.raisedUnsupported := by
  have hfetch := State.fetchInstr_unsupported (s := s.startStep) h
  simp [step, hb, hfetch, State.raisedUnsupported, State.readByte]

/-- The two steps there are, said of the state before (R100, R106). -/
theorem step_next_cases {s t : State} (h : step s = .next t) :
    s.bootstrapped = true ∧
      ((∃ i rest, decode s.bytesAtPc = .ok (i, rest) ∧ exec i (s.fetched i) = .next t) ∨
        (lookup (s.readByte s.pc) = none ∧ s.raisedUnsupported = t)) := by
  have hb := (step_cases h).1
  refine ⟨hb, ?_⟩
  cases hl : lookup (s.readByte s.pc) with
  | none => exact .inr ⟨rfl, by simpa [step_of_unsupported hb hl] using h⟩
  | some sh =>
    obtain ⟨i, rest, hi, -⟩ := State.fetchInstr_decodes hl
    exact .inl ⟨i, rest, hi, step_of_decode hb hi ▸ h⟩

section RaisedUnsupported
variable (s : State)

@[simp] theorem State.raisedUnsupported_a : s.raisedUnsupported.a = s.a := rfl
@[simp] theorem State.raisedUnsupported_x : s.raisedUnsupported.x = s.x := rfl
@[simp] theorem State.raisedUnsupported_y : s.raisedUnsupported.y = s.y := rfl
@[simp] theorem State.raisedUnsupported_sp : s.raisedUnsupported.sp = s.sp := rfl
@[simp] theorem State.raisedUnsupported_pc : s.raisedUnsupported.pc = s.pc + 1 := rfl
@[simp] theorem State.raisedUnsupported_p : s.raisedUnsupported.p = s.p := rfl
@[simp] theorem State.raisedUnsupported_cyc : s.raisedUnsupported.cyc = 1 := rfl
@[simp] theorem State.raisedUnsupported_mem : s.raisedUnsupported.mem = s.mem := rfl
@[simp] theorem State.raisedUnsupported_bootstrapped : s.raisedUnsupported.bootstrapped = s.bootstrapped := rfl
@[simp] theorem State.raisedUnsupported_result :
    s.raisedUnsupported.result = some (.error (.unsupportedOpcode (s.readByte s.pc))) := rfl
@[simp] theorem State.raisedUnsupported_cfg : s.raisedUnsupported.cfg = s.cfg := rfl
@[simp] theorem State.raisedUnsupported_faultRecord :
    s.raisedUnsupported.faultRecord = s.faultRecord.or (some (.unsupportedOpcode (s.readByte s.pc))) := rfl

end RaisedUnsupported

section Fetched
variable (s : State) (i : Instr)

@[simp] theorem State.fetched_a : (s.fetched i).a = s.a := rfl
@[simp] theorem State.fetched_x : (s.fetched i).x = s.x := rfl
@[simp] theorem State.fetched_y : (s.fetched i).y = s.y := rfl
@[simp] theorem State.fetched_sp : (s.fetched i).sp = s.sp := rfl
@[simp] theorem State.fetched_pc : (s.fetched i).pc = s.pc + BitVec.ofNat 16 i.length := rfl
@[simp] theorem State.fetched_p : (s.fetched i).p = s.p := rfl
@[simp] theorem State.fetched_cyc : (s.fetched i).cyc = i.length := rfl
@[simp] theorem State.fetched_mem : (s.fetched i).mem = s.mem := rfl
@[simp] theorem State.fetched_bootstrapped : (s.fetched i).bootstrapped = s.bootstrapped := rfl
@[simp] theorem State.fetched_faultRecord : (s.fetched i).faultRecord = s.faultRecord := rfl
@[simp] theorem State.fetched_result : (s.fetched i).result = some .ok := rfl
@[simp] theorem State.fetched_cfg : (s.fetched i).cfg = s.cfg := rfl

end Fetched

end Sys2Proof.Machine
end

section
/-! PROOFS. The statements of 10_state.md (R20 to R33): what a step keeps, what the host's operations keep, the flag
bank, the writers of each register, and what a step does not read. -/

namespace Sys2Proof.Machine

/-! ### What a step keeps -/

/-- No step writes the parts of the state this block has no use for (R23, R26, R30). -/
structure UnusedKept (s t : State) : Prop where
  sp : t.sp = s.sp
  unusedBits : ∀ k, 2 ≤ k → k ≤ 5 → t.p.getLsbD k = s.p.getLsbD k
  cfg : t.cfg = s.cfg
  bootstrapped : t.bootstrapped = s.bootstrapped

theorem exec_unusedKept {i : Instr} {s t : State} (h : exec i s = .next t) : UnusedKept s t := by
  obtain rfl := exec_next_iff.mp h
  exact ⟨by simp, fun k hlo hhi => Action.apply_p_getLsbD _ _ hlo hhi, by simp, by simp⟩

theorem step_unusedKept {s t : State} (h : step s = .next t) : UnusedKept s t := by
  obtain ⟨-, ⟨i, -, -, hexec⟩ | ⟨-, rfl⟩⟩ := step_next_cases h
  · have hkept := exec_unusedKept hexec
    exact ⟨hkept.sp, hkept.unusedBits, hkept.cfg, hkept.bootstrapped⟩
  · exact ⟨rfl, fun _ _ _ => rfl, rfl, rfl⟩

/-- The memory stays canonical through a step. -/
theorem step_wf {s t : State} (hwf : s.mem.wf = true) (h : step s = .next t) : t.mem.wf = true := by
  obtain ⟨-, ⟨i, -, -, hexec⟩ | ⟨-, rfl⟩⟩ := step_next_cases h
  · obtain rfl := exec_next_iff.mp hexec
    exact Action.apply_wf (s := (s.fetched i).addCycles _) hwf _
  · exact hwf

/-- No step costs more than five cycles, whatever the accumulator held before it (R102, R191). -/
theorem step_cyc_le {s t : State} (h : step s = .next t) : t.cyc ≤ 5 := by
  obtain ⟨-, ⟨i, -, -, hexec⟩ | ⟨-, rfl⟩⟩ := step_next_cases h
  · obtain rfl := exec_next_iff.mp hexec
    simpa [Nat.add_comm] using (s.fetched i).cyclesOf_add_length_le i
  · simp

/-- What a step does to the two fields of the error (R108, R163): an executed instruction reports Ok and keeps the
record, and the error is reported and recorded unless the record is full. -/
theorem step_error_cases {s t : State} (h : step s = .next t) :
    (t.result = some .ok ∧ t.faultRecord = s.faultRecord) ∨
      (lookup (s.readByte s.pc) = none ∧
        t.result = some (.error (.unsupportedOpcode (s.readByte s.pc))) ∧
        t.faultRecord = s.faultRecord.or (some (.unsupportedOpcode (s.readByte s.pc)))) := by
  obtain ⟨-, ⟨i, -, -, hexec⟩ | ⟨hl, rfl⟩⟩ := step_next_cases h
  · obtain rfl := exec_next_iff.mp hexec
    exact .inl ⟨by simp, by simp⟩
  · exact .inr ⟨hl, rfl, rfl⟩

theorem step_inv {s t : State} (hinv : s.Inv) (h : step s = .next t) : t.Inv where
  memory := step_wf hinv.memory h
  stackPointer := (step_unusedKept h).sp.trans hinv.stackPointer
  unusedFlags := (and_0x3C_congr (step_unusedKept h).unusedBits).trans hinv.unusedFlags
  cycles := step_cyc_le h
  recorded := by
    intro f hf
    obtain ⟨hres, -⟩ | ⟨-, -, hrec⟩ := step_error_cases h
    · simp [hres] at hf
    · simp [hrec]
  unsupported := by
    intro op hop
    obtain ⟨-, hrec⟩ | ⟨hl, -, hrec⟩ := step_error_cases h
    · exact hinv.unsupported op (hrec ▸ hop)
    · rw [hrec, Option.or_eq_some_iff] at hop
      obtain hold | ⟨-, hnew⟩ := hop
      · exact hinv.unsupported op hold
      · cases hnew; exact hl

/-- Settles O50: an executed instruction and the raised error each keep every clause of the invariant. -/
theorem stepKeepsInvariant : Obligations.StepKeepsInvariant := by
  unfold Obligations.StepKeepsInvariant
  exact fun _ _ hinv h => step_inv hinv h

/-- Settles O41: I, D and B stand at bits 2 to 4 of P. -/
theorem stepKeepsUnusedState : Obligations.StepKeepsUnusedState := by
  intro s t h
  obtain ⟨hsp, hbits, hcfg, hboot⟩ := step_unusedKept h
  have hflag (f : Flag) (hlo : 2 ≤ f.position) (hhi : f.position ≤ 5) : t.flag f = s.flag f := by
    simp only [State.flag, getFlag_eq, hbits _ hlo hhi]
  exact ⟨hsp, hflag .i (by decide) (by decide), hflag .d (by decide) (by decide), hflag .b (by decide) (by decide),
    hbits 5 (by decide) (by decide), hcfg, hboot⟩

/-! ### The host's operations -/

/-- Construction has the invariant: no result and no record yet, the rest by R32's values. -/
theorem State.construct_inv (cfg : Config) {initMem : Memory} (h : initMem.wf = true) :
    (State.construct cfg initMem).Inv where
  memory := h
  stackPointer := rfl
  unusedFlags := BitVec.zero_and
  cycles := Nat.zero_le 5
  recorded := nofun
  unsupported := nofun

/-- Loading changes the memory alone (R183). -/
theorem State.loadProgram_next {s t : State} {bytes : List Byte} (h : s.loadProgram bytes = .next t) :
    t = { s with mem := s.mem.writeBytes loadAddress bytes } := by
  unfold State.loadProgram at h
  split at h <;> cases h
  rfl

/-- Of the memory the invariant asks its canonical form alone. -/
theorem State.Inv.withMem {s : State} (hinv : s.Inv) {m : Memory} (h : m.wf = true) : { s with mem := m }.Inv :=
  ⟨h, hinv.stackPointer, hinv.unusedFlags, hinv.cycles, hinv.recorded, hinv.unsupported⟩

/-- The invariant says nothing of PC and the bootstrap mark (R185, D18). -/
theorem State.Inv.bootstrap {s : State} (hinv : s.Inv) : s.bootstrap.Inv :=
  ⟨hinv.memory, hinv.stackPointer, hinv.unusedFlags, hinv.cycles, hinv.recorded, hinv.unsupported⟩

/-- Settles O49, an operation at a time. -/
theorem hostOperationsKeepInvariant : Obligations.HostOperationsKeepInvariant := by
  refine ⟨fun cfg _ hwf => State.construct_inv cfg hwf, fun s t bytes hinv h => ?_, fun s hinv => hinv.bootstrap⟩
  rw [State.loadProgram_next h]
  exact hinv.withMem (Memory.wf_writeBytes hinv.memory _ _)

/-- Settles O1: P is 0, so every flag's mask selects 0. -/
theorem constructionState : Obligations.ConstructionState := by
  intro cfg initMem
  have hflags (f : Flag) : (State.construct cfg initMem).flag f = false := by
    simp [State.flag, getFlag, State.construct]
  exact ⟨_, rfl, rfl, rfl, rfl, rfl, rfl, rfl, rfl, rfl, hflags, rfl, rfl⟩

/-! ### The flag bank -/

/-- Settles O11: the bank is a map from flags to bits, its masks R25's. -/
theorem flagBankContract : Obligations.FlagBankContract := by
  intro p f v
  refine ⟨rfl, rfl, ?_, by simp [getFlag_setFlag], rfl, rfl, rfl, rfl, rfl, rfl, rfl⟩
  have hcompl : 0xFF#8 ^^^ f.mask = ~~~f.mask := by cases f <;> rfl
  rw [hcompl]
  rfl

/-- Settles O12: another flag has another bit, and `set` writes its own bit alone. -/
theorem flagsAreIndependent : Obligations.FlagsAreIndependent := by
  intro p f v
  refine ⟨agreeExcept_setFlag f p v, fun k hk => ?_⟩
  have hpos : k ≠ f.position := by simpa [Flag.mask_getLsbD] using hk
  rw [setFlag_getLsbD, if_neg hpos]

/-- Settles O13: SetZN is two sets of flags, at bits 1 and 7. -/
theorem setZNRule : Obligations.SetZNRule := by
  intro s v
  exact ⟨s.setZN_flagsZN v, fun _ hz hn => s.setZN_p_getLsbD v hz hn, rfl⟩

/-! ### The writers of the registers and flags -/

/-- A store action writes the memory alone. -/
theorem State.storeAction_apply (s u : State) (v : Byte) (o : Operand) :
    ∃ m, (s.storeAction v o).apply u = { u with mem := m } := by
  cases o with
  | implied | immediate w => exact ⟨u.mem, rfl⟩
  | mem o => exact ⟨_, rfl⟩

/-- Settles O42: by the mnemonic, which fixes the action. -/
theorem registersHaveTheirWriters : Obligations.RegistersHaveTheirWriters := by
  intro i s t h
  obtain rfl := exec_next_iff.mp h
  cases hm : i.mnemonic with
  | adc | nop => simp [State.actionOf, hm, Action.apply, State.flag]
  | lda | ldx | ldy => simp [State.actionOf, hm, Action.apply, State.flag, getFlag_setFlag]
  | sta =>
    obtain ⟨m, hstore⟩ := s.storeAction_apply (s.addCycles (s.cyclesOf i)) s.a i.operand
    simp [State.actionOf, hm, hstore, State.flag]
  | stx =>
    obtain ⟨m, hstore⟩ := s.storeAction_apply (s.addCycles (s.cyclesOf i)) s.x i.operand
    simp [State.actionOf, hm, hstore, State.flag]

/-! ### What a step does not read -/

/-- Settles O44: the start of a step drains the accumulator before anything reads the state. -/
theorem cyclesAreNotRead : Obligations.CyclesAreNotRead := by
  intro s n
  have hstart : ({ s with cyc := n } : State).startStep = s.startStep := rfl
  simp only [step, hstart]

theorem Action.apply_withSp (s : State) (act : Action) (v : Byte) :
    act.apply { s with sp := v } = { act.apply s with sp := v } := by
  cases act <;> rfl

/-- Operand, address and cycles are formed without SP, so the same action is applied (R23). -/
theorem exec_withSp {i : Instr} {s t : State} (h : exec i s = .next t) (v : Byte) :
    exec i { s with sp := v } = .next { t with sp := v } := by
  obtain rfl := exec_next_iff.mp h
  exact exec_next_iff.mpr (Action.apply_withSp (s.addCycles (s.cyclesOf i)) (s.actionOf i) v)

/-- Settles O45: the bytes at PC are the same, and so the case of the step. -/
theorem stackPointerIsNotRead : Obligations.StackPointerIsNotRead := by
  intro s t v h
  obtain ⟨hb, ⟨i, rest, hi, hexec⟩ | ⟨hl, rfl⟩⟩ := step_next_cases h
  · exact (step_of_decode (s := { s with sp := v }) hb hi).trans (exec_withSp hexec v)
  · exact step_of_unsupported (s := { s with sp := v }) hb hl

/-- An action reads of P the carry alone, and writes the same flags alike whatever `f` held (R122, R30). -/
theorem Action.apply_withP {f : Flag} (hf : f ≠ .c) {s : State} {q : Byte} (h : AgreeExcept f q s.p) (act : Action) :
    ∃ r, act.apply { s with p := q } = { act.apply s with p := r } ∧ AgreeExcept f r (act.apply s).p := by
  have hcarry : ({ s with p := q } : State).flag .c = s.flag .c := h .c hf.symm
  cases act with
  | adc m =>
    refine ⟨({ s with p := q }.adc m).p, ?_, ?_⟩
    · simp only [Action.apply, State.adc, hcarry]; rfl
    · simp only [Action.apply, State.adc_p, hcarry]
      exact (((h.setFlag _ _).setFlag _ _).setFlag _ _).setFlag _ _
  | lda m | ldx m | ldy m => exact ⟨_, rfl, (h.setFlag _ _).setFlag _ _⟩
  | store adr v | nop => exact ⟨q, rfl, h⟩

/-- Operand, address and cycles are formed without P, so the same action is applied (R30). -/
theorem exec_withP {f : Flag} (hf : f ≠ .c) {i : Instr} {s t : State} {q : Byte} (h : AgreeExcept f q s.p)
    (hexec : exec i s = .next t) : ∃ r, exec i { s with p := q } = .next { t with p := r } ∧ AgreeExcept f r t.p := by
  obtain rfl := exec_next_iff.mp hexec
  obtain ⟨r, happly, hr⟩ := Action.apply_withP hf (s := s.addCycles (s.cyclesOf i)) h (s.actionOf i)
  exact ⟨r, exec_next_iff.mpr happly, hr⟩

/-- Settles O46: the bytes at PC are the same, and so the case of the step. -/
theorem onlyCarryIsRead : Obligations.OnlyCarryIsRead := by
  intro s t f v hf h
  have hagree := agreeExcept_setFlag f s.p v
  obtain ⟨hb, ⟨i, rest, hi, hexec⟩ | ⟨hl, rfl⟩⟩ := step_next_cases h
  · obtain ⟨r, hr, hflags⟩ := exec_withP (s := s.fetched i) hf hagree hexec
    exact ⟨r, (step_of_decode (s := s.putFlag f v) hb hi).trans hr, hflags⟩
  · exact ⟨_, step_of_unsupported (s := s.putFlag f v) hb hl, hagree⟩

end Sys2Proof.Machine
end

section
/-! PROOFS. The statements of 20_memory.md (R40 to R56): one byte written, two bytes read, every content held, and
the only bytes a step writes. -/

namespace Sys2Proof.Machine

/-! ### One byte and two -/

/-- A read after a write, said of the state (R42). -/
@[simp] theorem State.readByte_writeByte (s : State) (adr b : Addr) (v : Byte) :
    (s.writeByte adr v).readByte b = if b = adr then v else s.readByte b :=
  Memory.read_write s.mem adr b v

/-- Settles O7: the byte by the law of a read after a write, the other fields by the form of the update. -/
theorem storeChangesOneByte : Obligations.StoreChangesOneByte := by
  intro s adr v
  exact ⟨by simp, fun b hb => by simp [hb], rfl⟩

/-- The next address as a number wraps at 65536 (R45, D14). -/
theorem add_one_eq_ofNat (adr : Addr) : adr + 1 = BitVec.ofNat 16 ((adr.toNat + 1) % 65536) := by
  apply BitVec.eq_of_toNat_eq
  simp

/-- Settles O8: the two bytes are the digits of the composed word (R44). -/
theorem readSixteenLittleEndian : Obligations.ReadSixteenLittleEndian := by
  intro m adr
  rw [Memory.read16, compose16_toNat, add_one_eq_ofNat, Nat.add_comm]

/-! ### Every content of the bytes -/

/-- The memory with the first `n` bytes of a content written to it, from the one that lists nothing. -/
def Memory.ofFirst (f : Addr → Byte) : Nat → Memory
  | 0 => []
  | n + 1 => (Memory.ofFirst f n).write (BitVec.ofNat 16 n) (f (BitVec.ofNat 16 n))

theorem Memory.wf_ofFirst (f : Addr → Byte) (n : Nat) : (Memory.ofFirst f n).wf = true := by
  induction n with
  | zero => exact Memory.wf_nil
  | succ n ih => exact Memory.wf_write ih _ _

/-- The bytes written read as the content. -/
theorem Memory.read_ofFirst (f : Addr → Byte) {n : Nat} {adr : Addr} (h : adr.toNat < n) :
    (Memory.ofFirst f n).read adr = f adr := by
  induction n with
  | zero => exact absurd h (Nat.not_lt_zero _)
  | succ n ih =>
    rw [Memory.ofFirst, Memory.read_write]
    split
    · next hlast => rw [hlast]
    · next hne =>
      have hn : adr.toNat ≠ n := by
        rintro rfl
        simp at hne
      exact ih (by omega)

/-- Settles O9: all 65536 bytes written one after another. -/
theorem everyInitMemHasAMemory : Obligations.EveryInitMemHasAMemory := by
  intro f
  exact ⟨Memory.ofFirst f 65536, Memory.wf_ofFirst f _, fun adr => Memory.read_ofFirst f adr.isLt⟩

/-! ### What a step writes -/

/-- The only action that changes a byte is a store at its address. -/
theorem Action.eq_store_of_readByte_ne {s : State} {act : Action} {adr : Addr}
    (h : (act.apply s).readByte adr ≠ s.readByte adr) : ∃ v, act = .store adr v := by
  cases act with
  | store b v =>
    have hadr : adr = b := by
      by_contra hne
      exact h (by simp [Action.apply, hne])
    exact ⟨v, by rw [hadr]⟩
  | adc m | lda m | ldx m | ldy m | nop => exact absurd rfl h

theorem State.storeAction_eq_store {s : State} {w v : Byte} {o : Operand} {adr : Addr}
    (h : s.storeAction w o = .store adr v) : ∃ m, o = .mem m ∧ adr = s.effAddr m := by
  cases o with
  | implied | immediate b => cases h
  | mem m => cases h; exact ⟨m, rfl, rfl⟩

/-- An instruction whose action is a store is STA or STX, at its operand's effective address (R48, R93). -/
theorem State.actionOf_eq_store {s : State} {i : Instr} {adr : Addr} {v : Byte} (h : s.actionOf i = .store adr v) :
    (i.mnemonic = .sta ∨ i.mnemonic = .stx) ∧ ∃ o, i.operand = .mem o ∧ adr = s.effAddr o := by
  cases hm : i.mnemonic <;> simp only [State.actionOf, hm] at h
  case sta => exact ⟨.inl rfl, State.storeAction_eq_store h⟩
  case stx => exact ⟨.inr rfl, State.storeAction_eq_store h⟩
  all_goals cases h

/-- The fetches move neither the index registers nor the bytes of a pointer (R80). -/
@[simp] theorem State.effAddr_fetched (s : State) (i : Instr) (o : MemOperand) :
    (s.fetched i).effAddr o = s.effAddr o := rfl

/-- Settles O43: the raised error writes no byte, and a changed byte makes the instruction's action a store. -/
theorem onlyStoresWriteMemory : Obligations.OnlyStoresWriteMemory := by
  intro s t h adr hne
  obtain ⟨-, ⟨i, rest, hi, hexec⟩ | ⟨-, rfl⟩⟩ := step_next_cases h
  · obtain rfl := exec_next_iff.mp hexec
    obtain ⟨v, hstore⟩ := Action.eq_store_of_readByte_ne (s := (s.fetched i).addCycles _) hne
    obtain ⟨hm, o, ho, hadr⟩ := State.actionOf_eq_store hstore
    exact ⟨i, rest, o, hi, hm, ho, by simpa using hadr⟩
  · exact absurd rfl hne

/-- Settles O40: the store and the fetch are at the one address PC, in the one memory (R56). -/
theorem storeIsSeenByTheNextFetch : Obligations.StoreIsSeenByTheNextFetch := by
  intro s
  refine ⟨_, exec_eq _ _, ?_⟩
  have haction : s.actionOf (.staAbs s.pc) = .store s.pc s.a := rfl
  simp [haction, Action.apply, State.fetchByte]

end Sys2Proof.Machine
end

section
/-! PROOFS. The statements of 30_encoding.md (R60 to R66): what the decoder answers, the two round trips, R64's rows,
and the bytes outside them. -/

namespace Sys2Proof

/-! ### What the decoder answers -/

/-- What a format makes of its operand bytes (R61, R62): an instruction, the low address byte first (D4). -/
inductive Shape.Makes : Shape → List Byte → Instr → Prop where
  | f1 (i : Instr) : Makes (.f1 i) [] i
  | f2 (mk : Byte → Instr) (b : Byte) : Makes (.f2 mk) [b] (mk b)
  | f3 (mk : Addr → Instr) (a : Addr) : Makes (.f3 mk) [loByte a, hiByte a] (mk a)

theorem Shape.Makes.build {sh : Shape} {ops : List Byte} {i : Instr} (h : sh.Makes ops i) (rest : List Byte) :
    sh.build (ops ++ rest) = .ok (i, rest) := by
  cases h with
  | f1 | f2 mk b => rfl
  | f3 mk a => simp [Shape.build, compose16_hiByte_loByte]

/-- Inversion of the operand formats: the bytes read are the format's own, the others are left over. -/
theorem Shape.makes_of_build {sh : Shape} {bs rest : List Byte} {i : Instr} (h : sh.build bs = .ok (i, rest)) :
    ∃ ops, sh.Makes ops i ∧ bs = ops ++ rest := by
  match sh, bs, h with
  | .f1 _, bs, rfl => exact ⟨[], .f1 i, rfl⟩
  | .f2 mk, b1 :: _, rfl => exact ⟨[b1], .f2 mk b1, rfl⟩
  | .f3 mk, b1 :: b2 :: _, rfl =>
    have hmakes := Shape.Makes.f3 mk (compose16 b2 b1)
    rw [loByte_compose16, hiByte_compose16] at hmakes
    exact ⟨[b1, b2], hmakes, rfl⟩

/-- The operand formats stop for want of bytes alone. -/
theorem Shape.build_error {sh : Shape} {bs : List Byte} {e : DecodeError} (h : sh.build bs = .error e) :
    e = .truncated := by
  unfold Shape.build at h
  split at h <;> cases h
  rfl

theorem decode_of_makes {op : Byte} {sh : Shape} {ops : List Byte} {i : Instr} (hl : lookup op = some sh)
    (h : sh.Makes ops i) (rest : List Byte) : decode (op :: ops ++ rest) = .ok (i, rest) := by
  simp [decode, hl, h.build]

/-- Inversion of the decoder (R63): an opcode byte with an entry, and the operand bytes of its format. -/
theorem decode_cases {bs rest : List Byte} {i : Instr} (h : decode bs = .ok (i, rest)) :
    ∃ op sh ops, lookup op = some sh ∧ sh.Makes ops i ∧ bs = op :: ops ++ rest := by
  cases bs with
  | nil => cases h
  | cons op bs =>
    cases hl : lookup op with
    | none => simp [decode, hl] at h
    | some sh =>
      obtain ⟨ops, hmakes, rfl⟩ := Shape.makes_of_build (by simpa [decode, hl] using h)
      exact ⟨op, sh, ops, hl, hmakes, rfl⟩

/-- The decoder rejects an opcode byte by name exactly when it has no entry (R65). -/
theorem decode_unsupported_iff {op : Byte} {bs : List Byte} :
    decode (op :: bs) = .error (.unsupportedOpcode op) ↔ lookup op = none := by
  cases hl : lookup op with
  | none => simp [decode, hl]
  | some sh =>
    simp only [decode, hl, reduceCtorEq, iff_false]
    intro h
    cases Shape.build_error h

/-! ### The two round trips -/

/-- Each instruction's opcode byte has its format in the table, and its operand bytes make it (R61 to R64). -/
theorem Instr.makes (i : Instr) : ∃ sh, lookup i.opcode = some sh ∧ sh.Makes i.operand.bytes i := by
  cases i with
  | nop => exact ⟨_, rfl, .f1 _⟩
  | adcImm b | adcZp b | adcZpX b | adcIndX b | adcIndY b | ldaImm b | ldaZp b | ldaZpX b | ldaIndX b | ldaIndY b
  | ldxImm b | ldxZp b | ldxZpY b | ldyImm b | ldyZp b | ldyZpX b | staZp b | staZpX b | staIndX b | staIndY b
  | stxZp b | stxZpY b => exact ⟨_, rfl, .f2 _ b⟩
  | adcAbs a | adcAbsX a | adcAbsY a | ldaAbs a | ldaAbsX a | ldaAbsY a | ldxAbs a | ldxAbsY a | ldyAbs a | ldyAbsX a
  | staAbs a | staAbsX a | staAbsY a | stxAbs a => exact ⟨_, rfl, .f3 _ a⟩

/-- What an entry of the table makes has the entry's opcode byte and the bytes it was made of (R63). -/
theorem encode_of_makes {op : Byte} {sh : Shape} {ops : List Byte} {i : Instr} (hl : lookup op = some sh)
    (h : sh.Makes ops i) : encode i = op :: ops := by
  cases lookup_cases hl with
  | f1 hop => cases h; rw [hop]; rfl
  | f2 mk hmk => cases h with | f2 _ b => simp [encode, hmk]
  | f3 mk hmk => cases h with | f3 _ a => simp [encode, hmk]

/-- Every constructor pairs its mnemonic with a mode the mnemonic lists (R64). -/
theorem Instr.wellFormed_eq_true (i : Instr) : i.wellFormed = true := by
  cases i <;> rfl

/-- Settles O27: the instruction's own entry of the table makes it again. -/
theorem decodeOfEncode : Obligations.DecodeOfEncode := by
  intro i rest
  obtain ⟨sh, hl, hmakes⟩ := i.makes
  exact ⟨i.wellFormed_eq_true, decode_of_makes hl hmakes rest⟩

/-- Settles O28: the entry the bytes were decoded by is that of the instruction. -/
theorem encodeOfDecode : Obligations.EncodeOfDecode := by
  intro bs rest i h
  obtain ⟨op, sh, ops, hl, hmakes, rfl⟩ := decode_cases h
  rw [encode_of_makes hl hmakes]

/-! ### R64's rows and the bytes outside them -/

open Machine

/-- A row's opcode byte with enough operand bytes decodes to the row's mnemonic and mode (R64). -/
theorem decode_specRow {row : SpecRow} (h : row ∈ specTable) (b1 b2 : Byte) :
    ∃ i rest, decode [row.1, b1, b2] = .ok (i, rest) ∧ i.mnemonic = row.2.1 ∧ i.mode = row.2.2 := by
  revert row
  simp only [specTable, specAdcRows, specLdaRows, specLdxRows, specLdyRows, specStaRows, specStxRows,
    List.forall_mem_append, List.forall_mem_cons, List.not_mem_nil, false_implies, implies_true, and_true]
  and_intros
  all_goals exact ⟨_, _, rfl, rfl, rfl⟩

/-- Settles O29: the operand bytes and the rest are the two bytes, as the bytes decoded are an encoding. -/
theorem tableRowsDecode : Obligations.TableRowsDecode := by
  refine ⟨rfl, fun row b1 b2 hrow => ?_⟩
  obtain ⟨i, rest, hdecode, hmnemonic, hmode⟩ := decode_specRow hrow b1 b2
  have hbytes : [row.1, b1, b2] = encode i ++ rest := encodeOfDecode _ _ _ hdecode
  exact ⟨i, rest, hdecode, hmnemonic, hmode, (List.cons.inj hbytes).2.symm⟩

/-- The decoder's table and R64's rows have the same opcode bytes. -/
theorem table_opcodes : table.map (·.1) = specTable.map (·.1) := rfl

theorem lookup_eq_none_iff {op : Byte} : lookup op = none ↔ ∀ row ∈ specTable, row.1 ≠ op :=
  calc lookup op = none
    _ ↔ ∀ row ∈ table, row.1 ≠ op := findRow_eq_none
    _ ↔ ∀ k ∈ table.map (·.1), k ≠ op := by rw [List.forall_mem_map]
    _ ↔ ∀ k ∈ specTable.map (·.1), k ≠ op := by rw [table_opcodes]
    _ ↔ ∀ row ∈ specTable, row.1 ≠ op := by rw [List.forall_mem_map]

/-- The numbers of the bytes with an entry are those of R64's rows, each once. -/
theorem supported_perm_rows :
    ((List.range 256).filter fun n => !(lookup (BitVec.ofNat 8 n)).isNone).Perm (specTable.map (·.1.toNat)) := by
  have hdistinct : (specTable.map (·.1.toNat)).Nodup := by decide
  refine (List.perm_ext_iff_of_nodup (List.nodup_range.filter _) hdistinct).mpr fun n => ?_
  have hfound : (!(lookup (BitVec.ofNat 8 n)).isNone) = true ↔ ∃ row ∈ specTable, row.1 = BitVec.ofNat 8 n := by
    simp [Option.isSome_iff_ne_none, lookup_eq_none_iff]
  have hbyte (row : SpecRow) : n < 256 ∧ row.1 = BitVec.ofNat 8 n ↔ row.1.toNat = n := by bv_omega
  simp only [List.mem_filter, List.mem_range, List.mem_map, hfound, ← hbyte]
  exact ⟨fun ⟨hn, row, hrow, h⟩ => ⟨row, hrow, hn, h⟩, fun ⟨row, hrow, hn, h⟩ => ⟨hn, row, hrow, h⟩⟩

/-- Settles O30: the decoder rejects by name what the lookup does not find, and 256 - 37 = 219. -/
theorem unsupportedOpcodeBytes : Obligations.UnsupportedOpcodeBytes := by
  refine ⟨fun op rest => decode_unsupported_iff.trans lookup_eq_none_iff, ?_⟩
  have hsplit := (List.range 256).length_eq_length_filter_add fun n => (lookup (BitVec.ofNat 8 n)).isNone
  have hrows : (specTable.map (·.1.toNat)).length = 37 := rfl
  rw [supported_perm_rows.length_eq, hrows, List.length_range] at hsplit
  omega

end Sys2Proof
end

section
/-! PROOFS. The statements of 40_addressing.md (R81 to R92): each mode's address and extra cycles as numbers. -/

namespace Sys2Proof.Machine

/-! ### Indexed addresses and their cycles -/

/-- Indexing an address wraps at 65536 (R45, R88, R91). -/
theorem add_zext16_toNat (adr : Addr) (idx : Byte) : (adr + zext16 idx).toNat = (adr.toNat + idx.toNat) % 65536 := by
  rw [BitVec.toNat_add, zext16_toNat]

/-- Indexing a zero-page address wraps at 256 (R85, R90). -/
theorem zeroPageSum_toNat (b idx : Byte) : (zeroPageSum b idx).toNat = (b.toNat + idx.toNat) % 256 :=
  BitVec.toNat_add b idx

/-- The operand bytes of an address in an instruction, low first (D4). -/
theorem digits_compose16 (hi lo : Byte) :
    [loByte (compose16 hi lo), hiByte (compose16 hi lo)] = [lo, hi] := by
  rw [loByte_compose16, hiByte_compose16]

/-- The read penalty's difference test is the overflow of the low byte's sum (R89). -/
theorem absIndexedCycles_read (lsb idx : Byte) :
    absIndexedCycles .read lsb idx = if lsb.toNat + idx.toNat > 255 then 1 else 0 := by
  have hcross : 255 - idx.toNat < lsb.toNat ↔ lsb.toNat + idx.toNat > 255 := by
    have := idx.isLt
    omega
  simp only [absIndexedCycles, hcross]

/-- Settles O14: zero-page addresses are the sums mod 256, the cycles the mode's constants. -/
theorem zeroPageModes : Obligations.ZeroPageModes := by
  intro s cls b
  have hindexed (idx : Byte) : (zext16 (zeroPageSum b idx)).toNat = (b.toNat + idx.toNat) % 256 := by
    rw [zext16_toNat, zeroPageSum_toNat]
  exact ⟨⟨rfl, zext16_toNat b, rfl⟩, ⟨rfl, hindexed s.x, rfl⟩, rfl, hindexed s.y, rfl⟩

/-- Settles O15: the two bytes are the digits of the address, and a read's cycle is the low byte's overflow. -/
theorem absoluteModes : Obligations.AbsoluteModes := by
  intro s lsb msb
  have hbytes := digits_compose16 msb lsb
  have hread (idx : Byte) : absIndexedCycles .read (loByte (compose16 msb lsb)) idx =
      if lsb.toNat + idx.toNat > 255 then 1 else 0 := by
    rw [loByte_compose16, absIndexedCycles_read]
  exact ⟨compose16_toNat msb lsb, hbytes, hbytes, hbytes, rfl, add_zext16_toNat _ s.x, add_zext16_toNat _ s.y,
    fun _ => rfl, rfl, rfl, hread s.x, hread s.y⟩

/-! ### Pointers in the zero page -/

/-- The pointer read in terms of the pointer's address as a number, ZP_PTR_WRAP choosing where the high byte is
(R92). -/
theorem State.pointer_eq_specPointer (s : State) (p : Byte) : s.pointer p = specPointer s p.toNat := by
  have hlow : zext16 p = BitVec.ofNat 16 p.toNat := (BitVec.ofNat_toNat 16 p).symm
  have hwrapped : zext16 (p + 1) = BitVec.ofNat 16 ((p.toNat + 1) % 256) := (BitVec.ofNat_toNat 16 (p + 1)).symm
  have hnext : BitVec.ofNat 16 p.toNat + 1 = BitVec.ofNat 16 (p.toNat + 1) := (BitVec.ofNat_add p.toNat 1).symm
  unfold State.pointer specPointer Memory.readPtr
  cases s.cfg.zpPtrWrap with
  | true => simp only [if_true, hwrapped, hlow, State.readByte]
  | false => simp only [Bool.false_eq_true, if_false, Memory.read16, hlow, hnext, State.readByte]

/-- The pointer's value is its two bytes as digits, the low byte first (R92). -/
theorem State.pointer_toNat (s : State) (p : Byte) :
    (s.pointer p).toNat = (s.readByte (BitVec.ofNat 16 p.toNat)).toNat +
      256 * (s.readByte (BitVec.ofNat 16 (if s.cfg.zpPtrWrap then (p.toNat + 1) % 256 else p.toNat + 1))).toNat := by
  rw [State.pointer_eq_specPointer, specPointer, compose16_toNat, Nat.add_comm]

/-- Settles O16: both addresses come from the pointer's value, and so does the page test of (Indirect),Y. -/
theorem indirectModes : Obligations.IndirectModes := by
  intro s cls b word
  have hword (p : Byte) : (s.pointer p).toNat = word p.toNat := s.pointer_toNat p
  refine ⟨⟨rfl, ?_, rfl⟩, rfl, ?_, ?_⟩
  · rw [← zeroPageSum_toNat, ← hword]
    rfl
  · rw [← hword]
    exact add_zext16_toNat _ s.y
  · rw [← hword, ← loByte_toNat]
    simp only [State.extraCycles, Bool.and_eq_true, decide_eq_true_eq]

/-! ### Resolving -/

/-- Settles O17: `resolve` pairs the effective address with the state that has the mode's cycles added. -/
theorem resolveChangesOnlyCycles : Obligations.ResolveChangesOnlyCycles := by
  intro s cls o
  exact ⟨rfl, rfl⟩

end Sys2Proof.Machine
end

section
/-! PROOFS. The statements of 41_dispatch.md (R100 to R108): what a step does at each opcode byte, how it ends, where
PC goes, and that it is the spec's own step. -/

namespace Sys2Proof.Machine

/-! ### The instruction at PC -/

/-- Settles O32: the instruction fetch leaves the fetched state and the decoder's instruction. -/
theorem stepRunsTheDecodedInstruction : Obligations.StepRunsTheDecodedInstruction := by
  intro s i rest hb _ hdecode
  exact step_of_decode hb hdecode

/-- What the raise leaves past the one byte fetched, field by field (R161). -/
theorem State.raisedUnsupported_eq (s : State) :
    s.raisedUnsupported = { s with
      pc := s.pc + 1, cyc := 1,
      result := some (.error (.unsupportedOpcode (s.readByte s.pc))),
      faultRecord := s.faultRecord.or (some (.unsupportedOpcode (s.readByte s.pc))) } :=
  rfl

/-- Settles O33: of R161's fields the record alone depends on whether an earlier error fills it. -/
theorem stepReportsUnsupportedOpcode : Obligations.StepReportsUnsupportedOpcode := by
  intro s hb hl
  rw [step_of_unsupported hb hl, State.raisedUnsupported_eq, ← add_one_eq_ofNat]
  cases s.faultRecord <;> rfl

/-! ### How a step ends -/

/-- A handler leaves PC to the fetches before it (R104). -/
theorem exec_pc {i : Instr} {s t : State} (h : exec i s = .next t) : t.pc = s.pc := by
  obtain rfl := exec_next_iff.mp h
  simp

/-- A handler leaves the step's result as the start of the step set it (R108). -/
theorem exec_result {i : Instr} {s t : State} (h : exec i s = .next t) : t.result = s.result := by
  obtain rfl := exec_next_iff.mp h
  simp

/-- After bootstrap every step answers a next state: an entry's handler completes, and so does the raise (R106). -/
theorem step_total {s : State} (hb : s.bootstrapped = true) : ∃ t, step s = .next t := by
  cases hl : lookup (s.readByte s.pc) with
  | none => exact ⟨_, step_of_unsupported hb hl⟩
  | some sh =>
    obtain ⟨i, rest, hdecode, -⟩ := State.fetchInstr_decodes hl
    exact ⟨_, (step_of_decode hb hdecode).trans (exec_eq i _)⟩

/-- Settles O35: the step answers a next state, whose result is one of the two. -/
theorem stepAlwaysEnds : Obligations.StepAlwaysEnds := by
  intro s hb
  obtain ⟨t, ht⟩ := step_total hb
  obtain ⟨hok, -⟩ | ⟨-, herr, -⟩ := step_error_cases ht
  · exact ⟨t, ht, .inl hok⟩
  · exact ⟨t, ht, .inr ⟨_, herr⟩⟩

/-- Settles O36: the fetched state holds Ok, and the raise writes the error. -/
theorem stepResult : Obligations.StepResult := by
  intro s t h
  obtain ⟨-, ⟨i, rest, hdecode, hexec⟩ | ⟨hl, rfl⟩⟩ := step_next_cases h
  · exact .inl ⟨exec_result hexec, i, rest, hdecode, hexec⟩
  · exact .inr ⟨rfl, hl⟩

/-- Settles O37: the fetches alone move PC, past the encoding or past the one unsupported byte. -/
theorem stepAdvancesPc : Obligations.StepAdvancesPc := by
  intro s t h
  obtain ⟨hb, -⟩ := step_cases h
  constructor
  · intro i rest hdecode
    have hpc : t.pc = s.pc + BitVec.ofNat 16 i.length := exec_pc ((step_of_decode hb hdecode).symm.trans h)
    have hlen : i.length = (encode i).length := by rw [length_eq, encode, List.length_cons, Nat.add_comm]
    rw [hpc, hlen, BitVec.toNat_add, BitVec.toNat_ofNat, Nat.add_mod_mod]
  · intro hl
    obtain rfl : s.raisedUnsupported = t := by simpa [step_of_unsupported hb hl] using h
    exact BitVec.toNat_add s.pc 1

/-! ### The spec's resolver (R81 to R92)

The spec fetches the operand bytes inside the resolver; the machine resolves an instruction whose bytes are fetched. -/

/-- `Resolve(mode)` on an operand in hand: what the handler receives, and the state with the mode's cycles added. -/
def State.resolveOperand (s : State) (cls : AccessClass) : Operand → Resolved × State
  | .implied => (.nothing, s)
  | .immediate v => (.value v, s)
  | .mem o => (.address (s.resolve cls o).1, (s.resolve cls o).2)

/-- A handler is the spec's, on what the resolver gives it (R93, R107). -/
theorem exec_eq_specExecute (i : Instr) (s : State) :
    exec i s = .next (specExecute (s.resolveOperand (accessClass i.mnemonic) i.operand).2 i.mnemonic
      (s.resolveOperand (accessClass i.mnemonic) i.operand).1) := by
  cases i <;> rfl

/-- The spec's address for an index in the zero page (R85, R86). -/
theorem ofNat_eq_zeroPageSum (b idx : Byte) :
    BitVec.ofNat 16 ((b.toNat + idx.toNat) % 256) = zext16 (zeroPageSum b idx) := by
  rw [← zeroPageSum_toNat]
  exact BitVec.ofNat_toNat 16 _

/-- The spec's address for an index in the whole space (R88, R91). -/
theorem ofNat_add_toNat (adr : Addr) (idx : Byte) : BitVec.ofNat 16 (adr.toNat + idx.toNat) = adr + zext16 idx :=
  BitVec.eq_of_toNat_eq (add_zext16_toNat adr idx).symm

/-- The spec's extra cycle of the indexed absolute modes (R89). -/
theorem absIndexedCycles_eq (cls : AccessClass) (lsb idx : Byte) :
    absIndexedCycles cls lsb idx = if cls = .store then 1 else if lsb.toNat + idx.toNat > 255 then 1 else 0 := by
  cases cls with
  | read => exact absIndexedCycles_read lsb idx
  | store => rfl

/-- The address two operand fetches compose, the low byte fetched first (D4). -/
def State.fetchedAddr (s : State) : Addr := compose16 (s.readByte (s.pc + 1)) (s.readByte s.pc)

/-- The spec's indexed absolute modes on the address at PC (R88, R89). -/
theorem specAbsoluteIndexed_eq (cls : AccessClass) (idx : Byte) (s : State) :
    specAbsoluteIndexed cls idx s = (.address (s.fetchedAddr + zext16 idx),
      s.afterFetch.afterFetch.addCycles (absIndexedCycles cls (loByte s.fetchedAddr) idx)) := by
  rw [← ofNat_add_toNat, absIndexedCycles_eq, State.fetchedAddr, loByte_compose16]
  rfl

/-- An address whose two bytes the fetches read is the one they compose. -/
theorem State.fetchedAddr_eq {s : State} {adr : Addr} (h : (s.fetchBytes 2).1 = [loByte adr, hiByte adr]) :
    s.fetchedAddr = adr := by
  obtain ⟨hlo, hhi⟩ : s.readByte s.pc = loByte adr ∧ s.readByte (s.pc + 1) = hiByte adr := by
    simpa [State.fetchBytes_two] using h
  rw [State.fetchedAddr, hlo, hhi, compose16_hiByte_loByte]

/-- The spec's resolver fetches the bytes of a memory operand, then resolves it as the machine does (R84 to R91). -/
theorem specResolve_mem {s : State} {o : MemOperand} (cls : AccessClass)
    (h : (s.fetchBytes o.bytes.length).1 = o.bytes) :
    specResolve cls s (Operand.mem o).mode =
      (.address (s.effAddr o), (s.fetchBytes o.bytes.length).2.addCycles (s.extraCycles cls o)) := by
  cases o with
  | zeroPage b =>
    obtain rfl := (List.cons.inj h).1
    exact Prod.ext (congrArg Resolved.address (BitVec.ofNat_toNat 16 _)) rfl
  | zeroPageX b | zeroPageY b =>
    obtain rfl := (List.cons.inj h).1
    exact Prod.ext (congrArg Resolved.address (ofNat_eq_zeroPageSum _ _)) rfl
  | absolute adr =>
    obtain rfl := State.fetchedAddr_eq h
    rfl
  | absoluteX adr | absoluteY adr =>
    obtain rfl := State.fetchedAddr_eq h
    exact specAbsoluteIndexed_eq cls _ s
  | indirectX b =>
    obtain rfl := (List.cons.inj h).1
    have hptr := s.pointer_eq_specPointer (zeroPageSum (s.readByte s.pc) s.x)
    rw [zeroPageSum_toNat] at hptr
    exact Prod.ext (congrArg Resolved.address hptr.symm) rfl
  | indirectY b =>
    obtain rfl := (List.cons.inj h).1
    simp only [Operand.mode, specResolve, State.fetchByte, ← State.pointer_eq_specPointer, ofNat_add_toNat,
      ← loByte_toNat]
    rfl

/-- Resolving reads neither PC nor the accumulator, so the fetches before it leave its address and cycles (R81). -/
theorem State.resolve_fetchBytes (s : State) (n : Nat) (cls : AccessClass) (o : MemOperand) :
    (s.fetchBytes n).2.resolve cls o = (s.effAddr o, (s.fetchBytes n).2.addCycles (s.extraCycles cls o)) := by
  rw [State.fetchBytes_snd]
  cases o <;> rfl

/-- The spec's resolver fetches the operand's bytes, then resolves it as the machine does (R81 to R91). -/
theorem specResolve_eq {s : State} {o : Operand} (cls : AccessClass) (h : (s.fetchBytes o.bytes.length).1 = o.bytes) :
    specResolve cls s o.mode = (s.fetchBytes o.bytes.length).2.resolveOperand cls o := by
  cases o with
  | implied => rfl
  | immediate v =>
    obtain rfl := (List.cons.inj h).1
    rfl
  | mem o =>
    rw [specResolve_mem cls h, State.resolveOperand, State.resolve_fetchBytes]
    rfl

/-! ### The spec's step (R100) -/

/-- R64's table has each instruction's mnemonic and mode at its opcode byte. -/
theorem specEntry_opcode (i : Instr) : specEntry i.opcode specTable = some (i.mnemonic, i.mode) := by
  cases i <;> rfl

/-- The spec's lookup misses exactly where no row has the byte (R65). -/
theorem specEntry_eq_none {op : Byte} {rows : List SpecRow} :
    specEntry op rows = none ↔ ∀ row ∈ rows, row.1 ≠ op := by
  induction rows with
  | nil => simp [specEntry]
  | cons row rows ih => by_cases hrow : row.1 = op <;> simp [specEntry, hrow, ih]

/-- The opcode fetch of a step (R80, R100). -/
theorem State.fetchByte_startStep (s : State) :
    s.startStep.fetchByte = (s.readByte s.pc, s.startStep.afterFetch) :=
  rfl

/-- The bytes of up to two fetches are those at PC and after it. -/
theorem State.fetchBytes_fst (s : State) {n : Nat} (hn : n ≤ 2) :
    (s.fetchBytes n).1 = [s.readByte s.pc, s.readByte (s.pc + 1)].take n := by
  match n, hn with
  | 0, _ | 1, _ | 2, _ => rfl

/-- Where the bytes at PC decode, the byte at PC is the instruction's opcode, and the fetches after it read the
instruction's operand bytes (R60, R62). -/
theorem fetches_of_decode {s : State} {i : Instr} {rest : List Byte} (h : decode s.bytesAtPc = .ok (i, rest)) :
    s.readByte s.pc = i.opcode ∧
      (s.startStep.afterFetch.fetchBytes i.operand.bytes.length).1 = i.operand.bytes := by
  have hbytes : s.bytesAtPc = encode i ++ rest := encodeOfDecode _ _ _ h
  obtain ⟨hop, hoperand⟩ : s.readByte s.pc = i.opcode ∧
      [s.readByte (s.pc + 1), s.readByte (s.pc + 2)] = i.operand.bytes ++ rest := List.cons.inj hbytes
  refine ⟨hop, ?_⟩
  have hle : i.operand.bytes.length ≤ 2 := by
    have hlen : 2 = i.operand.bytes.length + rest.length := by simpa using congrArg List.length hoperand
    omega
  have hnext : s.pc + 1 + 1 = s.pc + 2 := BitVec.add_assoc ..
  calc (s.startStep.afterFetch.fetchBytes i.operand.bytes.length).1
    _ = [s.readByte (s.pc + 1), s.readByte (s.pc + 1 + 1)].take i.operand.bytes.length := State.fetchBytes_fst _ hle
    _ = (i.operand.bytes ++ rest).take i.operand.bytes.length := by rw [hnext, hoperand]
    _ = i.operand.bytes := List.take_left

/-- The spec's step on an instruction resolves its operand in the fetched state and runs the handler (R100). -/
theorem exec_fetched_eq_specStep {s : State} {i : Instr} {rest : List Byte} (h : decode s.bytesAtPc = .ok (i, rest)) :
    exec i (s.fetched i) = .next (specStep s) := by
  obtain ⟨hop, hoperand⟩ := fetches_of_decode h
  have hentry : specEntry (s.readByte s.pc) specTable = some (i.mnemonic, i.operand.mode) := hop ▸ specEntry_opcode i
  have hresolve := specResolve_eq (accessClass i.mnemonic) hoperand
  rw [State.fetchBytes_snd_eq_fetched s (i := i) (by rw [length_eq, Nat.add_comm])] at hresolve
  rw [exec_eq_specExecute]
  simp only [specStep, State.fetchByte_startStep, hentry, hresolve]

/-- The spec's step at a byte with no row raises the error past it (R161). -/
theorem specStep_of_unsupported {s : State} (h : lookup (s.readByte s.pc) = none) :
    specStep s = s.raisedUnsupported := by
  have hentry : specEntry (s.readByte s.pc) specTable = none := specEntry_eq_none.mpr (lookup_eq_none_iff.mp h)
  simp only [specStep, State.fetchByte_startStep, hentry, State.raisedUnsupported]

/-- Settles O39: with an entry both run the handler on what the resolver gives, with none both raise the error. -/
theorem stepIsTheSpecsStep : Obligations.StepIsTheSpecsStep := by
  intro s hb
  cases hl : lookup (s.readByte s.pc) with
  | none => rw [step_of_unsupported hb hl, specStep_of_unsupported hl]
  | some sh =>
    obtain ⟨i, rest, hdecode, -⟩ := State.fetchInstr_decodes hl
    exact (step_of_decode hb hdecode).trans (exec_fetched_eq_specStep hdecode)

end Sys2Proof.Machine
end

section
/-! PROOFS. The statements of 42_adc.md (R120 to R122): ADC's completion with its frame, its V as signed overflow, and
its independence of the Decimal flag. -/

namespace Sys2Proof.Machine

/-! ### The frame of every handler -/

/-- I, D and B are among the bits of P the block has no use for (R30). -/
theorem UnusedKept.flag {s t : State} (h : UnusedKept s t) {f : Flag} (hlo : 2 ≤ f.position) (hhi : f.position ≤ 5) :
    t.flag f = s.flag f := by
  simp only [State.flag, getFlag_eq, h.unusedBits _ hlo hhi]

/-- What no handler writes: the frame of every instruction's effect (R23, R26, R30, R104). -/
theorem exec_kept {i : Instr} {s t : State} (h : exec i s = .next t) : Kept s t := by
  have hkept := exec_unusedKept h
  have hrecord : t.faultRecord = s.faultRecord := by
    obtain rfl := exec_next_iff.mp h
    simp
  exact {
    sp := hkept.sp
    pc := exec_pc h
    flagI := hkept.flag (by decide) (by decide)
    flagD := hkept.flag (by decide) (by decide)
    flagB := hkept.flag (by decide) (by decide)
    bit5 := hkept.unusedBits 5 (by decide) (by decide)
    bootstrapped := hkept.bootstrapped
    faultRecord := hrecord
    result := exec_result h
    cfg := hkept.cfg }

/-! ### Completion -/

/-- Every form of ADC adds its operand's value once its mode's cycles are counted (R93, R120). -/
theorem exec_adc {i : Instr} (hi : i.mnemonic = .adc) (s : State) :
    exec i s = .next ((s.addCycles (s.cyclesOf i)).adc (s.operandValue i.operand)) := by
  rw [exec_eq, State.actionOf, hi]
  rfl

@[simp] theorem State.adc_flag_c (s : State) (m : Byte) : (s.adc m).flag .c = adcCarry s.a m (s.flag .c) := by
  simp [State.flag, State.adc_p, getFlag_setFlag]

@[simp] theorem State.adc_flag_v (s : State) (m : Byte) :
    (s.adc m).flag .v = adcOverflow s.a m (adcResult s.a m (s.flag .c)) := by
  simp [State.flag, State.adc_p, getFlag_setFlag]

theorem State.adc_flagsZN (s : State) (m : Byte) : ZNOf (s.adc m).a (s.adc m) :=
  State.setZN_flagsZN _ _

theorem adcResult_toNat (a m : Byte) (c : Bool) : (adcResult a m c).toNat = (a.toNat + m.toNat + c.toNat) % 256 :=
  BitVec.toNat_ofNat _ 8

/-- Every form of ADC completes with R120's effect, on its operand's value and at its mode's cycles. -/
theorem completes_adc {i : Instr} (hi : i.mnemonic = .adc) (s : State) :
    Completes i s (AdcEffect s (s.operandValue i.operand) (s.cyclesOf i)) := by
  have hexec := exec_adc hi s
  refine ⟨_, hexec, ?_⟩
  exact {
    a := adcResult_toNat _ _ _
    flagC := by rw [State.adc_flag_c]; exact decide_eq_true_iff
    flagV := State.adc_flag_v _ _
    flagsZN := State.adc_flagsZN _ _
    x := rfl
    y := rfl
    cyc := rfl
    memory := fun _ => rfl
    kept := exec_kept hexec }

/-- Settles O18: the eight forms are ADC's instructions, each with its operand's value and cycles. -/
theorem adcCompletes : Obligations.AdcCompletes := by
  intro s v b adr
  refine ⟨?_, ?_, ?_, ?_, ?_, ?_, ?_, ?_⟩ <;> exact ⟨rfl, completes_adc rfl s⟩

/-! ### Signed overflow -/

/-- V's formula looks at the three sign bits alone: the result's differs from both operands' (R121). -/
theorem adcOverflow_iff_msb (a m r : Byte) : adcOverflow a m r = true ↔ a.msb = m.msb ∧ r.msb ≠ a.msb := by
  have hbit : adcOverflow a m r = ((a ^^^ r) &&& (m ^^^ r)).msb := by
    rw [BitVec.msb_eq_getLsbD_last]
    exact getFlag_eq _ .n
  rw [hbit, BitVec.msb_and, BitVec.msb_xor, BitVec.msb_xor]
  cases a.msb <;> cases m.msb <;> cases r.msb <;> decide

/-- Operands of one sign give a result of the other exactly when the signed sum leaves -128..127 (R121). -/
theorem adcResult_msb_iff_range (a m : Byte) (c : Bool) :
    a.msb = m.msb ∧ (adcResult a m c).msb ≠ a.msb ↔
      a.toInt + m.toInt + c.toNat < -128 ∨ 127 < a.toInt + m.toInt + c.toNat := by
  have ha := a.isLt
  have hm := m.isLt
  have hc := c.toNat_le
  have hr := adcResult_toNat a m c
  simp only [BitVec.toInt_eq_toNat_cond, BitVec.msb_eq_decide, ne_eq, decide_eq_decide, hr]
  omega

/-- Settles O19: V is the sign change, and the sign change is the range. -/
theorem adcOverflowIsSigned : Obligations.AdcOverflowIsSigned := by
  intro s m
  have hsign : (s.adc m).flag .v = true ↔ s.a.msb = m.msb ∧ (s.adc m).a.msb ≠ s.a.msb := by
    rw [State.adc_flag_v]
    exact adcOverflow_iff_msb _ _ _
  exact ⟨hsign.trans (adcResult_msb_iff_range _ _ _), hsign⟩

/-! ### The Decimal flag -/

/-- Two different flags are set in either order (R28). -/
theorem setFlag_comm {f g : Flag} (h : f ≠ g) (p : Byte) (v w : Bool) :
    setFlag (setFlag p f v) g w = setFlag (setFlag p g w) f v := by
  have hpos : f.position ≠ g.position := Flag.position_injective.ne h
  apply BitVec.eq_of_getLsbD_eq
  intro k _
  simp only [setFlag_getLsbD]
  by_cases hf : k = f.position
  · simp [hf, hpos]
  · simp [hf]

/-- D passes through ADC: it is not read, and none of the four flags written is D (R122). -/
theorem State.adc_putFlag_d (s : State) (d : Bool) (m : Byte) :
    (s.putFlag .d d).adc m = (s.adc m).putFlag .d d := by
  have hcarry : (s.putFlag .d d).flag .c = s.flag .c := agreeExcept_setFlag .d s.p d .c (by decide)
  have hp : ((s.putFlag .d d).adc m).p = setFlag (s.adc m).p .d d := by
    simp (disch := decide) only [State.adc_p, hcarry, State.putFlag_a, State.putFlag_p, setFlag_comm (f := .d)]
  calc (s.putFlag .d d).adc m
    _ = { s with
          a := adcResult s.a m ((s.putFlag .d d).flag .c)
          p := ((s.putFlag .d d).adc m).p } := rfl
    _ = { s with a := adcResult s.a m (s.flag .c), p := setFlag (s.adc m).p .d d } := by rw [hcarry, hp]
    _ = (s.adc m).putFlag .d d := rfl

/-- Settles O20: operand, address and cycles are formed without P, and D passes through the addition. -/
theorem adcIgnoresDecimal : Obligations.AdcIgnoresDecimal := by
  intro i s d hi
  refine ⟨_, exec_adc hi s, (exec_adc hi (s.putFlag .d d)).trans ?_⟩
  exact congrArg Host.Outcome.next (State.adc_putFlag_d (s.addCycles (s.cyclesOf i)) d (s.operandValue i.operand))

end Sys2Proof.Machine
end

section
/-! PROOFS. The statements of 43_loads.md (R130 to R132): LDA, LDX and LDY complete with the value in their register,
its Z and N, and the frame the three share. -/

namespace Sys2Proof.Machine

/-! ### The frame of a load -/

/-- A handler adds the cycles of its mode and no other (R83 to R91). -/
theorem exec_cyc {i : Instr} {s t : State} (h : exec i s = .next t) : t.cyc = s.cyc + s.cyclesOf i := by
  obtain rfl := exec_next_iff.mp h
  exact Action.apply_cyc _ _

/-- SetZN leaves every flag but Z and N (R31). -/
theorem State.setZN_flag (s : State) (v : Byte) {f : Flag} (hz : f ≠ .z) (hn : f ≠ .n) :
    (s.setZN v).flag f = s.flag f := by
  simp [State.flag, getFlag_setFlag, hz, hn]

/-- A handler that leaves P as SetZN of `m` does, and memory alone, has a load's frame (R130 to R132). -/
theorem loadFrame_of_exec {i : Instr} {s t : State} {m : Byte} (h : exec i s = .next t)
    (hp : t.p = (s.setZN m).p) (hmem : t.mem = s.mem) : LoadFrame s m (s.cyclesOf i) t := by
  have hflag (f : Flag) : t.flag f = (s.setZN m).flag f := congrArg (getFlag · f) hp
  exact {
    flagsZN := by simpa only [ZNOf, hflag] using s.setZN_flagsZN m
    flagC := (hflag .c).trans (s.setZN_flag m (by decide) (by decide))
    flagV := (hflag .v).trans (s.setZN_flag m (by decide) (by decide))
    cyc := exec_cyc h
    memory := fun adr => congrArg (·.read adr) hmem
    kept := exec_kept h }

/-! ### Completion -/

/-- Every form of LDA completes with R130's effect, on its operand's value and at its mode's cycles. -/
theorem completes_lda {i : Instr} (hi : i.mnemonic = .lda) (s : State) :
    Completes i s (LdaEffect s (s.operandValue i.operand) (s.cyclesOf i)) := by
  have hexec := exec_eq i s
  rw [State.actionOf, hi] at hexec
  exact ⟨_, hexec, rfl, rfl, rfl, loadFrame_of_exec hexec rfl rfl⟩

/-- Every form of LDX completes with R131's effect, on its operand's value and at its mode's cycles. -/
theorem completes_ldx {i : Instr} (hi : i.mnemonic = .ldx) (s : State) :
    Completes i s (LdxEffect s (s.operandValue i.operand) (s.cyclesOf i)) := by
  have hexec := exec_eq i s
  rw [State.actionOf, hi] at hexec
  exact ⟨_, hexec, rfl, rfl, rfl, loadFrame_of_exec hexec rfl rfl⟩

/-- Every form of LDY completes with R132's effect, on its operand's value and at its mode's cycles. -/
theorem completes_ldy {i : Instr} (hi : i.mnemonic = .ldy) (s : State) :
    Completes i s (LdyEffect s (s.operandValue i.operand) (s.cyclesOf i)) := by
  have hexec := exec_eq i s
  rw [State.actionOf, hi] at hexec
  exact ⟨_, hexec, rfl, rfl, rfl, loadFrame_of_exec hexec rfl rfl⟩

/-- Settles O21: the eight forms are LDA's instructions, each with its operand's value and cycles. -/
theorem ldaCompletes : Obligations.LdaCompletes := by
  intro s v b adr
  refine ⟨?_, ?_, ?_, ?_, ?_, ?_, ?_, ?_⟩ <;> exact ⟨rfl, completes_lda rfl s⟩

/-- Settles O22: the five forms are LDX's instructions, each with its operand's value and cycles. -/
theorem ldxCompletes : Obligations.LdxCompletes := by
  intro s v b adr
  refine ⟨?_, ?_, ?_, ?_, ?_⟩ <;> exact ⟨rfl, completes_ldx rfl s⟩

/-- Settles O23: the five forms are LDY's instructions, each with its operand's value and cycles. -/
theorem ldyCompletes : Obligations.LdyCompletes := by
  intro s v b adr
  refine ⟨?_, ?_, ?_, ?_, ?_⟩ <;> exact ⟨rfl, completes_ldy rfl s⟩

end Sys2Proof.Machine
end

section
/-! PROOFS. The statements of 44_stores.md (R140, R141): STA and STX complete with their register's byte at the
effective address and nothing else written. -/

namespace Sys2Proof.Machine

/-! ### The effect of a store -/

/-- An instruction whose action is the write at its operand's effective address has a store's whole effect (R42,
R93). -/
theorem completes_store {i : Instr} {s : State} {o : MemOperand} {v : Byte}
    (haction : s.actionOf i = .store (s.effAddr o) v) (hcycles : s.cyclesOf i = s.extraCycles .store o) :
    Completes i s (StoreEffect v s o) := by
  have hexec : exec i s = .next ((s.addCycles (s.extraCycles .store o)).writeByte (s.effAddr o) v) := by
    rw [exec_eq, haction, hcycles]
    rfl
  refine ⟨_, hexec, ?_⟩
  exact {
    stored := by simp
    elsewhere := fun adr hne => by rw [State.readByte_writeByte, if_neg hne]; rfl
    a := rfl
    x := rfl
    y := rfl
    p := rfl
    cyc := rfl
    kept := exec_kept hexec }

/-! ### Completion -/

/-- Every form of STA completes with R140's effect, at its operand's address and its mode's cycles. -/
theorem completes_sta {i : Instr} {o : MemOperand} (hi : i.mnemonic = .sta) (ho : i.operand = .mem o) (s : State) :
    Completes i s (StoreEffect s.a s o) := by
  apply completes_store
  · rw [State.actionOf, hi, ho]; rfl
  · rw [State.cyclesOf, hi, ho]; rfl

/-- Every form of STX completes with R141's effect, at its operand's address and its mode's cycles. -/
theorem completes_stx {i : Instr} {o : MemOperand} (hi : i.mnemonic = .stx) (ho : i.operand = .mem o) (s : State) :
    Completes i s (StoreEffect s.x s o) := by
  apply completes_store
  · rw [State.actionOf, hi, ho]; rfl
  · rw [State.cyclesOf, hi, ho]; rfl

/-- Settles O24: the seven forms are STA's instructions, each with an operand in memory. -/
theorem staCompletes : Obligations.StaCompletes := by
  intro s b adr
  refine ⟨?_, ?_, ?_, ?_, ?_, ?_, ?_⟩ <;> exact ⟨rfl, completes_sta rfl rfl s⟩

/-- Settles O25: the three forms are STX's instructions, each with an operand in memory. -/
theorem stxCompletes : Obligations.StxCompletes := by
  intro s b adr
  refine ⟨?_, ?_, ?_⟩ <;> exact ⟨rfl, completes_stx rfl rfl s⟩

end Sys2Proof.Machine
end

section
/-! PROOFS. The statement of 45_nop.md (R150): NOP completes with one cycle and no other effect. -/

namespace Sys2Proof.Machine

/-- NOP's handler in the common form: its mode has one cycle beyond the fetch, and its action leaves the state. -/
theorem exec_nop (s : State) : exec .nop s = .next (s.addCycles 1) :=
  exec_eq .nop s

/-- Settles O26: the byte is 0xEA's row of the encoder, and the one cycle is the handler's whole effect. -/
theorem nopCompletes : Obligations.NopCompletes := by
  constructor
  · rfl
  · intro s
    exact exec_nop s

end Sys2Proof.Machine
end

section
/-! PROOFS. The statement of 60_exceptions.md (R163): the fault record keeps the first error reported. -/

namespace Sys2Proof.Machine

/-- A full record survives both kinds of step; a second raised error does not replace it (D22; log entry 4). -/
theorem step_keeps_faultRecord {s t : State} {f : Fault} (h : step s = .next t) (hf : s.faultRecord = some f) :
    t.faultRecord = some f := by
  obtain ⟨-, hrec⟩ | ⟨-, -, hrec⟩ := step_error_cases h
  · exact hrec.trans hf
  · rw [hrec, hf, Option.some_or]

/-- From an empty record the step's result says what the record holds after it (R108, R163). -/
theorem step_of_clean {s t : State} (h : step s = .next t) (hclean : s.Clean) :
    (t.result = some .ok ∧ t.faultRecord = none) ∨ ∃ f, t.result = some (.error f) ∧ t.faultRecord = some f := by
  obtain ⟨hres, hrec⟩ | ⟨-, hres, hrec⟩ := step_error_cases h
  · exact .inl ⟨hres, hrec.trans hclean⟩
  · refine .inr ⟨_, hres, ?_⟩
    rw [hrec, hclean, Option.none_or]

/-- Settles O47: a full record by its frame, an empty one by the two results of a step. -/
theorem faultRecordIsSticky : Obligations.FaultRecordIsSticky := by
  intro s t h
  refine ⟨fun f hf => step_keeps_faultRecord h hf, fun hclean => ?_⟩
  obtain ⟨hres, hrec⟩ | ⟨f, hres, hrec⟩ := step_of_clean h hclean
  · simp [State.Clean, hres, hrec]
  · simp [State.Clean, hres, hrec]

end Sys2Proof.Machine
end

section
/-! PROOFS. The statements of 70_reset_and_hazards.md (R180 to R191): what the host's operations do, the state at the
first step, the cost of a step, and how a run ends. -/

namespace Sys2Proof.Machine

/-! ### Bytes written one after another -/

/-- What a read gives after at most 65536 bytes are written from an address on: an address's offset from the first,
mod 65536, says which of the bytes stands there, if one does (R183). -/
theorem Memory.read_writeBytes (m : Memory) (first adr : Addr) {bytes : List Byte} (h : bytes.length ≤ 65536) :
    (m.writeBytes first bytes).read adr = bytes.getD (adr - first).toNat (m.read adr) := by
  induction bytes generalizing m first with
  | nil => rfl
  | cons b bytes ih =>
    rw [List.length_cons] at h
    rw [Memory.writeBytes, ih _ _ (by omega), Memory.read_write]
    by_cases hadr : adr = first
    · have hlast : bytes.length ≤ (adr - (first + 1)).toNat := by rw [hadr]; bv_omega
      rw [if_pos hadr, List.getD_eq_default _ _ hlast, hadr, BitVec.sub_self]
      rfl
    · have hoffset : (adr - first).toNat = (adr - (first + 1)).toNat + 1 := by bv_omega
      rw [if_neg hadr, hoffset, List.getD_cons_succ]

/-- A byte of the program, at its offset from the load address (R183). -/
theorem Memory.read_writeBytes_loaded (m : Memory) {bytes : List Byte} (h : bytes.length ≤ imageSize) {k : Nat}
    (hk : k < bytes.length) :
    (m.writeBytes loadAddress bytes).read (BitVec.ofNat 16 (0x8000 + k)) = bytes[k] := by
  unfold imageSize at h
  have hoffset : (BitVec.ofNat 16 (0x8000 + k) - loadAddress).toNat = k := by unfold loadAddress; bv_omega
  rw [Memory.read_writeBytes _ _ _ (by omega), hoffset, List.getD_eq_getElem _ _ hk]

/-- An address below the load address or past the program's last byte (R183). -/
theorem Memory.read_writeBytes_unloaded (m : Memory) {bytes : List Byte} (h : bytes.length ≤ imageSize) {adr : Addr}
    (hadr : adr.toNat < 0x8000 ∨ 0x8000 + bytes.length ≤ adr.toNat) :
    (m.writeBytes loadAddress bytes).read adr = m.read adr := by
  unfold imageSize at h
  have hoffset : bytes.length ≤ (adr - loadAddress).toNat := by unfold loadAddress; bv_omega
  rw [Memory.read_writeBytes _ _ _ (by omega), List.getD_eq_default _ _ hoffset]

/-! ### The host's operations -/

theorem State.loadProgram_of_le (s : State) {bytes : List Byte} (h : bytes.length ≤ imageSize) :
    s.loadProgram bytes = .next { s with mem := s.mem.writeBytes loadAddress bytes } :=
  if_pos h

theorem State.loadProgram_of_gt (s : State) {bytes : List Byte} (h : imageSize < bytes.length) :
    s.loadProgram bytes = .refused .programTooLong :=
  if_neg (Nat.not_le_of_gt h)

/-- Settles O4: loading writes the memory alone, and each address is inside the range of the bytes or outside it. -/
theorem loadProgramEffect : Obligations.LoadProgramEffect := by
  intro s bytes
  refine ⟨fun hlen => ⟨_, s.loadProgram_of_le hlen, ?_, ?_, rfl⟩, s.loadProgram_of_gt⟩
  · exact fun k hk => s.mem.read_writeBytes_loaded hlen hk
  · exact fun adr hadr => s.mem.read_writeBytes_unloaded hlen hadr

/-- Settles O3: PC's two digits are the bytes of the vector, and the update writes PC and the mark alone. -/
theorem bootstrapEffect : Obligations.BootstrapEffect := by
  intro s
  exact ⟨readSixteenLittleEndian s.mem resetVector, rfl⟩

/-! ### The program image and the boot order -/

/-- A program filled up with zeros (R184, D20). -/
theorem getElem?_append_zeros (prog : List Byte) {n k : Nat} (hk : k < prog.length + n) :
    (prog ++ List.replicate n 0x00#8)[k]? = some (prog.getD k 0x00#8) := by
  by_cases hin : k < prog.length
  · rw [List.getElem?_append_left hin, List.getElem?_eq_getElem hin, List.getD_eq_getElem _ _ hin]
  · rw [List.getElem?_append_right (by omega), List.getElem?_replicate, if_pos (by omega),
      List.getD_eq_default _ _ (by omega)]

/-- The image of a program that fits, byte by byte (R184, D20). -/
theorem exists_buildImage {prog : List Byte} (h : prog.length ≤ imageSize) :
    ∃ img, buildImage prog = some img ∧ img.length = imageSize ∧ img[0x7FFC]? = some 0x00#8 ∧
      img[0x7FFD]? = some 0x80#8 ∧
      ∀ k, k < imageSize → k ≠ 0x7FFC → k ≠ 0x7FFD → img[k]? = some (prog.getD k 0x00#8) := by
  have hfilled : (prog ++ List.replicate (imageSize - prog.length) 0x00#8).length = imageSize := by
    simp [Nat.add_sub_cancel' h]
  refine ⟨_, if_pos h, ?_, ?_, ?_, fun k hk hlow hhigh => ?_⟩
  · rw [List.length_set, List.length_set, hfilled]
  · rw [List.getElem?_set_ne (by decide), List.getElem?_set_self (by rw [hfilled]; decide)]
  · rw [List.getElem?_set_self (by rw [List.length_set, hfilled]; decide)]
  · rw [List.getElem?_set_ne hhigh.symm, List.getElem?_set_ne hlow.symm, getElem?_append_zeros prog (by omega)]

/-- Settles O5: the vector is written last, and every other offset keeps the filled program's byte. -/
theorem buildImageContents : Obligations.BuildImageContents := by
  intro prog
  exact ⟨exists_buildImage, fun hlong => if_neg (Nat.not_le_of_gt hlong)⟩

/-- The boot order with a program that has an image: load and bootstrap cannot fail (R186). -/
theorem boot_of_image (cfg : Config) (initMem : Memory) {prog img : List Byte} (himg : buildImage prog = some img)
    (hlen : img.length ≤ imageSize) :
    boot cfg initMem prog =
      .next (State.construct cfg (initMem.writeBytes loadAddress img)).bootstrap := by
  have hload : (State.construct cfg initMem).loadProgram img =
      .next (State.construct cfg (initMem.writeBytes loadAddress img)) := State.loadProgram_of_le _ hlen
  simp only [boot, himg, hload]

/-- Settles O6: PC is the vector of the image, its bytes the two at the end of the loaded range. -/
theorem bootState : Obligations.BootState := by
  intro cfg initMem prog hprog
  obtain ⟨img, himg, hlen, hlow, hhigh, -⟩ := exists_buildImage hprog
  have hloaded (k : Nat) (hk : k < 32768) :
      img[k]? = some ((initMem.writeBytes loadAddress img).read (BitVec.ofNat 16 (0x8000 + k))) := by
    have hin : k < img.length := hlen ▸ hk
    rw [initMem.read_writeBytes_loaded hlen.le hin, List.getElem?_eq_getElem hin]
  have hpc : (initMem.writeBytes loadAddress img).read16 resetVector = 0x8000#16 := by
    have hvector : compose16 0x80#8 0x00#8 = 0x8000#16 := by decide
    rw [← hvector]
    exact congrArg₂ compose16 (Option.some_inj.mp ((hloaded 0x7FFD (by decide)).symm.trans hhigh))
      (Option.some_inj.mp ((hloaded 0x7FFC (by decide)).symm.trans hlow))
  refine ⟨img, _, himg, boot_of_image cfg initMem himg hlen.le, hpc, rfl, rfl, rfl, rfl, rfl, rfl, rfl, rfl,
    hloaded, fun adr hadr => ?_⟩
  exact initMem.read_writeBytes_unloaded hlen.le (.inl hadr)

/-! ### The cost of a step -/

/-- The fetches change nothing that the cost of a mode depends on (R80). -/
@[simp] theorem State.cyclesOf_fetched (s : State) (i j : Instr) : (s.fetched i).cyclesOf j = s.cyclesOf j := rfl

/-- The low byte of a pointer is the byte at the pointer's address, for both values of ZP_PTR_WRAP (R92). -/
theorem State.loByte_pointer (s : State) (p : Byte) : loByte (s.pointer p) = s.readByte (zext16 p) := by
  unfold State.pointer Memory.readPtr
  split <;> exact loByte_compose16 _ _

/-- R191's cost of a condition: the base cost, and the one cycle of the condition. -/
theorem costIf_eq (crossed : Bool) (n : Nat) : costIf crossed n = n + if crossed then 1 else 0 := by
  cases crossed <;> rfl

theorem costIf_decide (crossed : Prop) [Decidable crossed] (n : Nat) :
    costIf (decide crossed) n = n + if crossed then 1 else 0 := by
  rw [costIf_eq]
  simp only [decide_eq_true_eq]

/-- R191's table is the instruction's length and the cycles of its mode (R94). -/
theorem cycleCost_eq (s : State) (i : Instr) : cycleCost s i = i.length + s.cyclesOf i := by
  cases i with
  | adcAbsX a | ldaAbsX a | ldyAbsX a | adcAbsY a | ldaAbsY a | ldxAbsY a =>
    rw [cycleCost, costIf_decide, ← absIndexedCycles_read]
    rfl
  | adcIndX b | ldaIndX b | staIndX b =>
    rw [cycleCost, costIf_decide]
    rfl
  | adcIndY b | ldaIndY b | staIndY b =>
    rw [cycleCost, costIf_eq, ← s.loByte_pointer]
    rfl
  | _ => rfl

/-- Settles O38: the drained accumulator counts the fetches, then the mode's cycles; the error has one fetch. -/
theorem stepCycleCosts : Obligations.StepCycleCosts := by
  intro s t h
  obtain ⟨hb, -⟩ := step_cases h
  constructor
  · intro i rest hdecode
    have hexec : exec i (s.fetched i) = .next t := (step_of_decode hb hdecode).symm.trans h
    rw [exec_cyc hexec, cycleCost_eq, State.fetched_cyc, State.cyclesOf_fetched]
  · intro hl
    obtain rfl : s.raisedUnsupported = t := by simpa [step_of_unsupported hb hl] using h
    rfl

/-- Settles O34: the mark is the step's first test. -/
theorem stepBeforeBootstrapIsRefused : Obligations.StepBeforeBootstrapIsRefused := by
  intro s hb
  simp [step, hb]

/-! ### A run -/

/-- A step that reports Ok leaves the rest of the budget (R187). -/
theorem run_succ_of_ok {s u : State} (h : step s = .next u) (hok : u.result = some .ok) (k : Nat) :
    run (k + 1) s = run k u := by
  simp [run, h, hok]

/-- A step that reports an error ends the run with it (R189, D25). -/
theorem run_succ_of_error {s u : State} {f : Fault} (h : step s = .next u) (herr : u.result = some (.error f))
    (k : Nat) : run (k + 1) s = .next (u, some f) := by
  simp [run, h, herr]

/-- How a run that has steps left came to its end: its first step reported Ok and the rest ran on, or it reported
the error the run returns. -/
theorem run_succ_cases {k : Nat} {s t : State} {e : Option Fault} (h : run (k + 1) s = .next (t, e)) :
    (∃ u, step s = .next u ∧ u.result = some .ok ∧ run k u = .next (t, e)) ∨
      (step s = .next t ∧ ∃ f, t.result = some (.error f) ∧ e = some f) := by
  cases hs : step s with
  | next u =>
    obtain ⟨hok, -⟩ | ⟨-, herr, -⟩ := step_error_cases hs
    · exact .inl ⟨u, rfl, hok, run_succ_of_ok hs hok k ▸ h⟩
    · rw [run_succ_of_error hs herr] at h
      cases h
      exact .inr ⟨rfl, _, herr, rfl⟩
  | fault f => simp [run, hs] at h
  | refused r => simp [run, hs] at h

/-- A step that reports Ok leaves the record as it was (R163). -/
theorem State.Clean.step_ok {s u : State} (hclean : s.Clean) (h : step s = .next u) (hok : u.result = some .ok) :
    u.Clean := by
  obtain ⟨-, hrec⟩ | ⟨f, herr, -⟩ := step_of_clean h hclean
  · exact hrec
  · simp [hok] at herr

/-- Settles O51, by induction on the budget: the error is the first step's, or the rest's with one step more before
it. -/
theorem runStopsAtTheFirstError : Obligations.RunStopsAtTheFirstError := by
  intro k
  induction k with
  | zero => intro s t f _ h; cases h
  | succ k ih =>
    intro s t f hclean h
    obtain ⟨u, hs, hok, hrest⟩ | ⟨hs, g, herr, hg⟩ := run_succ_cases h
    · obtain ⟨hres, hrec, j, hj, v, hrun, hv, hlast⟩ := ih u t f (hclean.step_ok hs hok) hrest
      exact ⟨hres, hrec, j + 1, Nat.succ_lt_succ hj, v, (run_succ_of_ok hs hok j).trans hrun, hv, hlast⟩
    · obtain rfl : f = g := Option.some_inj.mp hg
      obtain ⟨hok, -⟩ | ⟨g, hres, hrec⟩ := step_of_clean hs hclean
      · simp [hok] at herr
      · obtain rfl : g = f := by simpa [herr] using hres.symm
        exact ⟨herr, hrec, 0, Nat.succ_pos k, s, rfl, hclean, hs⟩

/-- The core's run takes a step whatever it reports. -/
theorem core_run_succ {s u : State} (h : step s = .next u) (k : Nat) :
    Sys2Proof.core.run (k + 1) s = Sys2Proof.core.run k u := by
  have hcore : Sys2Proof.core.step s = .next u := h
  simp only [Host.Core.run, hcore]

/-- Settles O52, by induction on the budget: no step of such a run reports an error. -/
theorem runWithoutErrorIsItsSteps : Obligations.RunWithoutErrorIsItsSteps := by
  intro k
  induction k with
  | zero => intro s t h; cases h; exact ⟨rfl, id⟩
  | succ k ih =>
    intro s t h
    obtain ⟨u, hs, hok, hrest⟩ | ⟨-, f, -, hf⟩ := run_succ_cases h
    · obtain ⟨hrun, hkept⟩ := ih u t hrest
      exact ⟨(core_run_succ hs k).trans hrun, fun hclean => hkept (hclean.step_ok hs hok)⟩
    · cases hf

end Sys2Proof.Machine
end

section
/-! PROOFS. The canonical form of memory (20_memory.md section 1), the reset state (70_reset_and_hazards.md) and
words of R64's encodings (30_encoding.md). -/

namespace Sys2Proof.Machine

/-! ### The canonical form determines the cells -/

theorem Memory.canonicalFrom_cons {lo k : Nat} {v : Byte} {m : Memory} :
    Memory.canonicalFrom lo ((k, v) :: m) = true ↔
      lo ≤ k ∧ k < 65536 ∧ v ≠ Memory.unlisted ∧ Memory.canonicalFrom (k + 1) m = true := by
  simp [Memory.canonicalFrom, and_assoc]

theorem Memory.canonicalFrom_head {lo k : Nat} {v : Byte} {m : Memory}
    (h : Memory.canonicalFrom lo ((k, v) :: m) = true) : Memory.canonicalFrom k ((k, v) :: m) = true :=
  Memory.canonicalFrom_cons.mpr ⟨le_rfl, (Memory.canonicalFrom_cons.mp h).2⟩

/-- Canonical from an address on, a memory lists nothing below it. -/
theorem Memory.le_of_find_ne {lo a : Nat} {m : Memory} (h : Memory.canonicalFrom lo m = true)
    (hne : Memory.find m a ≠ Memory.unlisted) : lo ≤ a := by
  induction m generalizing lo with
  | nil => exact absurd rfl hne
  | cons c m ih =>
    obtain ⟨k, v⟩ := c
    obtain ⟨hlo, -, -, htail⟩ := Memory.canonicalFrom_cons.mp h
    by_cases hk : k = a
    · exact hk ▸ hlo
    · have hlt : k + 1 ≤ a := ih htail (by simpa [Memory.find, hk] using hne)
      omega

/-- The first listed address is listed by every memory that reads alike, so none is canonical from above it. -/
theorem Memory.le_head_of_find_eq {lo lo' k : Nat} {v : Byte} {m m' : Memory}
    (h : Memory.canonicalFrom lo ((k, v) :: m) = true) (h' : Memory.canonicalFrom lo' m' = true)
    (hread : ∀ a < 65536, Memory.find ((k, v) :: m) a = Memory.find m' a) : lo' ≤ k := by
  obtain ⟨-, hk, hv, -⟩ := Memory.canonicalFrom_cons.mp h
  have hfind : Memory.find m' k = v := by rw [← hread k hk, Memory.find, if_pos rfl]
  exact Memory.le_of_find_ne h' (hfind ▸ hv)

/-- Without its first cell a canonical memory reads as before, but for that cell's address. -/
theorem Memory.find_tail {lo k : Nat} {v : Byte} {m : Memory} (h : Memory.canonicalFrom lo ((k, v) :: m) = true)
    (a : Nat) : Memory.find m a = if k = a then Memory.unlisted else Memory.find ((k, v) :: m) a := by
  obtain ⟨-, -, -, htail⟩ := Memory.canonicalFrom_cons.mp h
  split
  · next hk =>
    by_contra hne
    have hlt := Memory.le_of_find_ne htail hne
    omega
  · next hk => rw [Memory.find, if_neg hk]

/-- The first cells are equal, and so the tails read alike in turn. -/
theorem Memory.eq_of_find_eq {lo lo' : Nat} {m m' : Memory} (h : Memory.canonicalFrom lo m = true)
    (h' : Memory.canonicalFrom lo' m' = true) (hread : ∀ a < 65536, Memory.find m a = Memory.find m' a) : m = m' := by
  induction m generalizing lo lo' m' with
  | nil =>
    cases m' with
    | nil => rfl
    | cons c' m' =>
      have hle := Memory.le_head_of_find_eq (lo' := c'.1 + 1) h' rfl fun a ha => (hread a ha).symm
      exact absurd hle (Nat.not_succ_le_self _)
  | cons c m ih =>
    cases m' with
    | nil =>
      have hle := Memory.le_head_of_find_eq (lo' := c.1 + 1) h rfl hread
      exact absurd hle (Nat.not_succ_le_self _)
    | cons c' m' =>
      obtain ⟨k, v⟩ := c
      obtain ⟨k', v'⟩ := c'
      have hge := Memory.le_head_of_find_eq h (Memory.canonicalFrom_head h') hread
      have hle := Memory.le_head_of_find_eq h' (Memory.canonicalFrom_head h) fun a ha => (hread a ha).symm
      obtain rfl : k = k' := le_antisymm hle hge
      obtain ⟨-, hk, -, htail⟩ := Memory.canonicalFrom_cons.mp h
      obtain ⟨-, -, -, htail'⟩ := Memory.canonicalFrom_cons.mp h'
      obtain rfl : v = v' := by simpa [Memory.find] using hread k hk
      have htails : m = m' := ih htail htail' fun a ha => by
        rw [Memory.find_tail h, Memory.find_tail h', hread a ha]
      rw [htails]

/-- Settles O10: reading alike is finding alike at every address below 65536. -/
theorem canonicalMemoriesReadingAlikeAreEqual : Obligations.CanonicalMemoriesReadingAlikeAreEqual := by
  intro m m' h h' hread
  refine Memory.eq_of_find_eq h h' fun a ha => ?_
  have hadr := hread (BitVec.ofNat 16 a)
  rwa [Memory.read, Memory.read, BitVec.toNat_ofNat, Nat.mod_eq_of_lt ha] at hadr

/-! ### The state at reset -/

/-- Settles O2: bootstrap keeps construction's values, and the vector it loads is not listed in the empty memory. -/
theorem resetState : Obligations.ResetState := by
  obtain ⟨_, rfl, ha, hx, hy, hsp, -, hp, hcyc, hmem, -, -, hrec⟩ := constructionState Config.specDefault []
  have hvector : State.reset.pc = 0#16 := rfl
  exact ⟨State.reset_eq, ha, hx, hy, hsp, hp, hcyc, hvector, hmem, rfl, hrec⟩

/-- Settles O48: construction establishes the invariant, and bootstrap keeps it. -/
theorem resetHasInvariant : Obligations.ResetHasInvariant := by
  unfold Obligations.ResetHasInvariant
  rw [State.reset_eq]
  exact (State.construct_inv Config.specDefault Memory.wf_nil).bootstrap

/-! ### Words of R64's encodings -/

/-- Settles O31: each word is its instruction's encoding and what is left, and the decoder inverts the encoder. -/
theorem wordsDecodeAsTheSpecSays : Obligations.WordsDecodeAsTheSpecSays := by
  have hword (i : Instr) (rest : List Byte) : decode (encode i ++ rest) = .ok (i, rest) := (decodeOfEncode i rest).2
  exact ⟨hword (.ldaImm 0x03#8) [], hword (.adcImm 0x01#8) [], hword (.ldxZpY 0xFF#8) [],
    hword (.ldyAbsX 0x0280#16) [], hword (.staAbs 0x1234#16) [], hword (.stxZpY 0xF0#8) [], hword .nop [0x00#8]⟩

end Sys2Proof.Machine
end
